-- ==== Sys2Proof/Word.lean ====
section
/-! DEFINITION. The word types of the TCB (00_scope.md R9: TW = 32, VW = 8, HW = 32, IW = 16; 30_encoding.md R80). Every
quantity is unsigned (R10), so the arithmetic is BitVec's own. -/

namespace Sys2Proof

/-- One command word `CW[95:0]` (R80). -/
abbrev Command := BitVec 96

/-- A 32-bit word: an operand `A` or `B`, a handler identifier, a response value (R9: HW = 32). -/
abbrev Word := BitVec 32

/-- A time value or a duration, TW = 32 bits (R9). -/
abbrev Time := BitVec 32

/-- The `idx` field: a slot index, a pin index or a register address, IW = 16 bits (R9, R81). -/
abbrev Idx := BitVec 16

/-- The `val` field and `targetValue`: a level or a duty value, VW = 8 bits (R9, R81). -/
abbrev Val := BitVec 8

/-- A pin level: 0 is LOW, 1 is HIGH (R34). -/
abbrev Level := BitVec 1

end Sys2Proof
end

