-- ==== Sys2Proof/Syntax.lean ====
section
/-! DEFINITION. The 23 instructions of 30_encoding.md R83, one constructor per row of the opcode table, with the operand
fields the row lists. -/

namespace Sys2Proof

/-- A command. `idx`, `a`, `b`, `val` are the operand fields of R81; where the row's operand is `val[0]` (a level), `val` must be
0 or 1 (`Instr.WellFormed`). -/
inductive Instr where
  /-- `TICK` (R190). -/
  | tick
  /-- `REGP slot, period, hid` (R133). -/
  | regp (idx : Idx) (a : Word) (b : Word)
  /-- `REGP.AUTO period, hid` (R134). -/
  | regpAuto (a : Word) (b : Word)
  /-- `REGP.MS slot, millis, hid` (R135). -/
  | regpMs (idx : Idx) (a : Word) (b : Word)
  /-- `REGP.MS.AUTO millis, hid` (R136). -/
  | regpMsAuto (a : Word) (b : Word)
  /-- `REG1 slot, period, hid` (R137). -/
  | reg1 (idx : Idx) (a : Word) (b : Word)
  /-- `REG1.AUTO period, hid` (R138). -/
  | reg1Auto (a : Word) (b : Word)
  /-- `REG1.MS slot, millis, hid` (R139). -/
  | reg1Ms (idx : Idx) (a : Word) (b : Word)
  /-- `REG1.MS.AUTO millis, hid` (R140). -/
  | reg1MsAuto (a : Word) (b : Word)
  /-- `CHGP slot, period` (R142). -/
  | chgp (idx : Idx) (a : Word)
  /-- `CLRS slot` (R144). -/
  | clrs (idx : Idx)
  /-- `FREE` (R146). -/
  | free
  /-- `PULSE pin, duration, level` (R163). -/
  | pulse (val : Val) (idx : Idx) (a : Word)
  /-- `PULSE.MS pin, millis, level` (R164). -/
  | pulseMs (val : Val) (idx : Idx) (a : Word)
  /-- `PULSE.A pin, duration, duty` (R165). -/
  | pulseA (val : Val) (idx : Idx) (a : Word)
  /-- `PULSE.MS.A pin, millis, duty` (R166). -/
  | pulseMsA (val : Val) (idx : Idx) (a : Word)
  /-- `PULSEIN pin, level` (R170). -/
  | pulsein (val : Val) (idx : Idx)
  /-- `ISBUSY pin` (R173). -/
  | isbusy (idx : Idx)
  /-- `CLRP pin` (R175). -/
  | clrp (idx : Idx)
  /-- `CLRP.F pin, level` (R176). -/
  | clrpF (val : Val) (idx : Idx)
  /-- `ELAPSED from, to` (R118). -/
  | elapsed (a : Word) (b : Word)
  /-- `RD addr` (R230). -/
  | rd (idx : Idx)
  /-- `DONE` (R200). -/
  | done
  deriving DecidableEq, Repr

end Sys2Proof
end

