-- ==== Sys2Proof/WellFormed.lean ====
section
/-! DEFINITION. The checks on an instruction beyond its operand widths: a level operand is `val[0]` with `val[7:1] = 0`
(30_encoding.md R83, R84). -/

namespace Sys2Proof

/-- `val[7:1] = 0`: the field holds a level, 0 LOW or 1 HIGH (R83). -/
abbrev IsLevel (v : Val) : Prop := v.toNat ≤ 1

/-- An instruction that some command word encodes. -/
def Instr.WellFormed : Instr → Prop
  | .pulse v _ _ => IsLevel v
  | .pulseMs v _ _ => IsLevel v
  | .pulsein v _ => IsLevel v
  | .clrpF v _ => IsLevel v
  | .tick => True
  | .regp _ _ _ => True
  | .regpAuto _ _ => True
  | .regpMs _ _ _ => True
  | .regpMsAuto _ _ => True
  | .reg1 _ _ _ => True
  | .reg1Auto _ _ => True
  | .reg1Ms _ _ _ => True
  | .reg1MsAuto _ _ => True
  | .chgp _ _ => True
  | .clrs _ => True
  | .free => True
  | .pulseA _ _ _ => True
  | .pulseMsA _ _ _ => True
  | .isbusy _ => True
  | .clrp _ => True
  | .elapsed _ _ => True
  | .rd _ => True
  | .done => True

end Sys2Proof
end

