-- ==== Sys2Proof/Decode.lean ====
section
/-! DEFINITION. The decoder and the encoder of the command word (30_encoding.md R80 to R88), and the opcode map of R83 as data. -/

namespace Sys2Proof

/-- The fields of a command word (R81). -/
structure Fields where
  op : BitVec 4
  ms : Bool
  auto : Bool
  an : Bool
  force : Bool
  val : Val
  idx : Idx
  a : Word
  b : Word
  deriving DecidableEq, Repr

/-- Why a word is illegal (R86). The block answers `E_ILLEGAL` for each; the names are the model's own (log 8). -/
inductive DecodeError where
  /-- `op` is `0x0`, `0xE` or `0xF`. -/
  | reservedOpcode
  /-- a flag bit that the opcode does not use is one. -/
  | strayFlag
  /-- `val` is not zero where the row has no value, or above 1 where it is a level. -/
  | badValue
  /-- `idx` is not zero where the row has no index. -/
  | strayIndex
  /-- `A` is not zero where the row does not use it. -/
  | strayA
  /-- `B` is not zero where the row does not use it. -/
  | strayB
  deriving DecidableEq, Repr

/-- What a row of R83 admits in the `val` field. -/
inductive ValKind where
  /-- must be zero. -/
  | zero
  /-- a level: `val[7:1]` must be zero. -/
  | level
  /-- any duty value. -/
  | duty
  deriving DecidableEq, Repr

/-- `val` is one that the row admits (R83). -/
def ValKind.admits : ValKind → Val → Bool
  | .zero, v => v.toNat == 0
  | .level, v => v.toNat ≤ 1
  | .duty, _ => true

/-- The fields at their places in the word (R80, R81). -/
def Command.fields (w : Command) : Fields where
  op := w.extractLsb' 92 4
  ms := w.getLsbD 91
  auto := w.getLsbD 90
  an := w.getLsbD 89
  force := w.getLsbD 88
  val := w.extractLsb' 80 8
  idx := w.extractLsb' 64 16
  a := w.extractLsb' 32 32
  b := w.extractLsb' 0 32

/-- The 32-bit header `HDR`, `op` in its highest bits and `idx` in its lowest (R81). -/
def Fields.header (f : Fields) : BitVec 32 :=
  f.op ++ BitVec.ofBool f.ms ++ BitVec.ofBool f.auto ++ BitVec.ofBool f.an ++ BitVec.ofBool f.force ++ f.val ++ f.idx

/-- `CW = {HDR, A, B}` (R80). -/
def Fields.pack (f : Fields) : Command := f.header ++ f.a ++ f.b

/-- Instruction `i`, if the flags are the row's and every field outside the row's operands is zero (R83, R86). -/
def Fields.check (f : Fields) (flagsOk : Bool) (vk : ValKind) (useIdx useA useB : Bool) (i : Instr) :
    Except DecodeError Instr :=
  if flagsOk = false then .error .strayFlag
  else if vk.admits f.val = false then .error .badValue
  else if useIdx = false ∧ f.idx.toNat ≠ 0 then .error .strayIndex
  else if useA = false ∧ f.a.toNat ≠ 0 then .error .strayA
  else if useB = false ∧ f.b.toNat ≠ 0 then .error .strayB
  else .ok i

/-- The instruction of the fields: the opcode of R82 chooses the family, the flags choose the row (R84), every other bit
outside the row's operands must be zero (R86). -/
def Fields.decode (f : Fields) : Except DecodeError Instr :=
  match f.op.toNat with
  | 0x1 => f.check (!f.ms && !f.auto && !f.an && !f.force) .zero false false false .tick
  | 0x2 =>
    match f.ms, f.auto with
    | false, false => f.check (!f.an && !f.force) .zero true true true (.regp f.idx f.a f.b)
    | false, true => f.check (!f.an && !f.force) .zero false true true (.regpAuto f.a f.b)
    | true, false => f.check (!f.an && !f.force) .zero true true true (.regpMs f.idx f.a f.b)
    | true, true => f.check (!f.an && !f.force) .zero false true true (.regpMsAuto f.a f.b)
  | 0x3 =>
    match f.ms, f.auto with
    | false, false => f.check (!f.an && !f.force) .zero true true true (.reg1 f.idx f.a f.b)
    | false, true => f.check (!f.an && !f.force) .zero false true true (.reg1Auto f.a f.b)
    | true, false => f.check (!f.an && !f.force) .zero true true true (.reg1Ms f.idx f.a f.b)
    | true, true => f.check (!f.an && !f.force) .zero false true true (.reg1MsAuto f.a f.b)
  | 0x4 => f.check (!f.ms && !f.auto && !f.an && !f.force) .zero true true false (.chgp f.idx f.a)
  | 0x5 => f.check (!f.ms && !f.auto && !f.an && !f.force) .zero true false false (.clrs f.idx)
  | 0x6 => f.check (!f.ms && !f.auto && !f.an && !f.force) .zero false false false .free
  | 0x7 =>
    match f.ms, f.an with
    | false, false => f.check (!f.auto && !f.force) .level true true false (.pulse f.val f.idx f.a)
    | true, false => f.check (!f.auto && !f.force) .level true true false (.pulseMs f.val f.idx f.a)
    | false, true => f.check (!f.auto && !f.force) .duty true true false (.pulseA f.val f.idx f.a)
    | true, true => f.check (!f.auto && !f.force) .duty true true false (.pulseMsA f.val f.idx f.a)
  | 0x8 => f.check (!f.ms && !f.auto && !f.an && !f.force) .level true false false (.pulsein f.val f.idx)
  | 0x9 => f.check (!f.ms && !f.auto && !f.an && !f.force) .zero true false false (.isbusy f.idx)
  | 0xA =>
    match f.force with
    | false => f.check (!f.ms && !f.auto && !f.an) .zero true false false (.clrp f.idx)
    | true => f.check (!f.ms && !f.auto && !f.an) .level true false false (.clrpF f.val f.idx)
  | 0xB => f.check (!f.ms && !f.auto && !f.an && !f.force) .zero false true true (.elapsed f.a f.b)
  | 0xC => f.check (!f.ms && !f.auto && !f.an && !f.force) .zero true false false (.rd f.idx)
  | 0xD => f.check (!f.ms && !f.auto && !f.an && !f.force) .zero false false false .done
  | _ => .error .reservedOpcode

/-- Decoding is total and needs no state (R87): every word is one instruction or illegal. -/
def decode (w : Command) : Except DecodeError Instr := w.fields.decode

/-- A header with opcode `op` and every other field zero. -/
def Fields.blank (op : BitVec 4) : Fields where
  op := op
  ms := false
  auto := false
  an := false
  force := false
  val := 0
  idx := 0
  a := 0
  b := 0

/-- The fields an instruction sets (R83, R90). -/
def Instr.fields : Instr → Fields
  | .tick => .blank 0x1
  | .regp i a b => { Fields.blank 0x2 with idx := i, a := a, b := b }
  | .regpAuto a b => { Fields.blank 0x2 with auto := true, a := a, b := b }
  | .regpMs i a b => { Fields.blank 0x2 with ms := true, idx := i, a := a, b := b }
  | .regpMsAuto a b => { Fields.blank 0x2 with ms := true, auto := true, a := a, b := b }
  | .reg1 i a b => { Fields.blank 0x3 with idx := i, a := a, b := b }
  | .reg1Auto a b => { Fields.blank 0x3 with auto := true, a := a, b := b }
  | .reg1Ms i a b => { Fields.blank 0x3 with ms := true, idx := i, a := a, b := b }
  | .reg1MsAuto a b => { Fields.blank 0x3 with ms := true, auto := true, a := a, b := b }
  | .chgp i a => { Fields.blank 0x4 with idx := i, a := a }
  | .clrs i => { Fields.blank 0x5 with idx := i }
  | .free => .blank 0x6
  | .pulse v i a => { Fields.blank 0x7 with val := v, idx := i, a := a }
  | .pulseMs v i a => { Fields.blank 0x7 with ms := true, val := v, idx := i, a := a }
  | .pulseA v i a => { Fields.blank 0x7 with an := true, val := v, idx := i, a := a }
  | .pulseMsA v i a => { Fields.blank 0x7 with ms := true, an := true, val := v, idx := i, a := a }
  | .pulsein v i => { Fields.blank 0x8 with val := v, idx := i }
  | .isbusy i => { Fields.blank 0x9 with idx := i }
  | .clrp i => { Fields.blank 0xA with idx := i }
  | .clrpF v i => { Fields.blank 0xA with force := true, val := v, idx := i }
  | .elapsed a b => { Fields.blank 0xB with a := a, b := b }
  | .rd i => { Fields.blank 0xC with idx := i }
  | .done => .blank 0xD

/-- The command word of an instruction: one 96-bit word (R80). -/
def encode (i : Instr) : Command := i.fields.pack

/-- The 23 mnemonics of R83. -/
inductive Mnemonic where
  | TICK | REGP | REGP_AUTO | REGP_MS | REGP_MS_AUTO | REG1 | REG1_AUTO | REG1_MS | REG1_MS_AUTO | CHGP | CLRS | FREE
  | PULSE | PULSE_MS | PULSE_A | PULSE_MS_A | PULSEIN | ISBUSY | CLRP | CLRP_F | ELAPSED | RD | DONE
  deriving DecidableEq, Repr

/-- The mnemonic of an instruction (R83). -/
def Instr.mnemonic : Instr → Mnemonic
  | .tick => .TICK
  | .regp _ _ _ => .REGP
  | .regpAuto _ _ => .REGP_AUTO
  | .regpMs _ _ _ => .REGP_MS
  | .regpMsAuto _ _ => .REGP_MS_AUTO
  | .reg1 _ _ _ => .REG1
  | .reg1Auto _ _ => .REG1_AUTO
  | .reg1Ms _ _ _ => .REG1_MS
  | .reg1MsAuto _ _ => .REG1_MS_AUTO
  | .chgp _ _ => .CHGP
  | .clrs _ => .CLRS
  | .free => .FREE
  | .pulse _ _ _ => .PULSE
  | .pulseMs _ _ _ => .PULSE_MS
  | .pulseA _ _ _ => .PULSE_A
  | .pulseMsA _ _ _ => .PULSE_MS_A
  | .pulsein _ _ => .PULSEIN
  | .isbusy _ => .ISBUSY
  | .clrp _ => .CLRP
  | .clrpF _ _ => .CLRP_F
  | .elapsed _ _ => .ELAPSED
  | .rd _ => .RD
  | .done => .DONE

/-- One row of the opcode map: `w` is this instruction iff `w and mask = pattern` (R83). -/
structure Row where
  mnemonic : Mnemonic
  pattern : Command
  mask : Command
  deriving DecidableEq, Repr

/-- The word is one of this row's (R83). -/
def Row.selects (r : Row) (w : Command) : Bool := w &&& r.mask == r.pattern

/-- The opcode map of R83, row by row as the spec prints it. -/
def opcodeMap : List Row := [
  ⟨.TICK, 0x100000000000000000000000, 0xFFFFFFFFFFFFFFFFFFFFFFFF⟩,
  ⟨.REGP, 0x200000000000000000000000, 0xFFFF00000000000000000000⟩,
  ⟨.REGP_AUTO, 0x240000000000000000000000, 0xFFFFFFFF0000000000000000⟩,
  ⟨.REGP_MS, 0x280000000000000000000000, 0xFFFF00000000000000000000⟩,
  ⟨.REGP_MS_AUTO, 0x2C0000000000000000000000, 0xFFFFFFFF0000000000000000⟩,
  ⟨.REG1, 0x300000000000000000000000, 0xFFFF00000000000000000000⟩,
  ⟨.REG1_AUTO, 0x340000000000000000000000, 0xFFFFFFFF0000000000000000⟩,
  ⟨.REG1_MS, 0x380000000000000000000000, 0xFFFF00000000000000000000⟩,
  ⟨.REG1_MS_AUTO, 0x3C0000000000000000000000, 0xFFFFFFFF0000000000000000⟩,
  ⟨.CHGP, 0x400000000000000000000000, 0xFFFF000000000000FFFFFFFF⟩,
  ⟨.CLRS, 0x500000000000000000000000, 0xFFFF0000FFFFFFFFFFFFFFFF⟩,
  ⟨.FREE, 0x600000000000000000000000, 0xFFFFFFFFFFFFFFFFFFFFFFFF⟩,
  ⟨.PULSE, 0x700000000000000000000000, 0xFFFE000000000000FFFFFFFF⟩,
  ⟨.PULSE_MS, 0x780000000000000000000000, 0xFFFE000000000000FFFFFFFF⟩,
  ⟨.PULSE_A, 0x720000000000000000000000, 0xFF00000000000000FFFFFFFF⟩,
  ⟨.PULSE_MS_A, 0x7A0000000000000000000000, 0xFF00000000000000FFFFFFFF⟩,
  ⟨.PULSEIN, 0x800000000000000000000000, 0xFFFE0000FFFFFFFFFFFFFFFF⟩,
  ⟨.ISBUSY, 0x900000000000000000000000, 0xFFFF0000FFFFFFFFFFFFFFFF⟩,
  ⟨.CLRP, 0xA00000000000000000000000, 0xFFFF0000FFFFFFFFFFFFFFFF⟩,
  ⟨.CLRP_F, 0xA10000000000000000000000, 0xFFFE0000FFFFFFFFFFFFFFFF⟩,
  ⟨.ELAPSED, 0xB00000000000000000000000, 0xFFFFFFFF0000000000000000⟩,
  ⟨.RD, 0xC00000000000000000000000, 0xFFFF0000FFFFFFFFFFFFFFFF⟩,
  ⟨.DONE, 0xD00000000000000000000000, 0xFFFFFFFFFFFFFFFFFFFFFFFF⟩]

/-- The low `nbits` bits of `w` as one command word, where they fit in 96 bits: the table numbers the bits of the one 96-bit
word from bit 0, its least significant, and every bit above `nbits` is zero (log 11). -/
def tableCommand (nbits w : Nat) : Option Command :=
  if w % 2 ^ nbits < 2 ^ 96 then some (BitVec.ofNat 96 (w % 2 ^ nbits)) else none

/-- The instruction the decoder reads from the bits `w`, numbered as the opcode table numbers them. -/
def decodeTableWord (nbits w : Nat) : Option Instr :=
  match tableCommand nbits w with
  | some c => (decode c).toOption
  | none => none

end Sys2Proof
end

