-- ==== Sys2Proof/Machine/Arith.lean ====
section
/-! DEFINITION. The arithmetic of the block (40_time_arithmetic.md R110 to R117, 42_pin_commands.md R160). The modulus and the
units per millisecond are arguments. -/

namespace Sys2Proof.Machine

/-- `elapsed(from, to) = (to - from) mod MOD`, the mathematical remainder (R110, R10). -/
def elapsed (mod : Nat) (from' to' : Time) : Time :=
  BitVec.ofInt 32 (((to'.toNat : Int) - (from'.toNat : Int)) % (mod : Int))

/-- `due(last, now, period)`: `elapsed(last, now) >= period`, unsigned (R113). -/
def due (mod : Nat) (last now period : Time) : Bool := decide (period.toNat ≤ (elapsed mod last now).toNat)

/-- `scale(ms, a)`: `a`, or `a * TPM` with the low 32 bits kept (R115). -/
def scale (tpm : Nat) (ms : Bool) (a : Word) : Time :=
  match ms with
  | false => a
  | true => BitVec.ofNat 32 (a.toNat * tpm)

/-- `linv(v)`: 1 if `v = 0`, else 0 (R160). -/
def linv (v : Val) : Level := if v.toNat = 0 then 1 else 0

/-- `zext_8` of a level (R85, R170). -/
def levelVal (r : Level) : Val := r.zeroExtend 8

/-- `val[0]` (R81, R161). -/
def valLevel (v : Val) : Level := v.extractLsb' 0 1

end Sys2Proof.Machine
end

