-- ==== Sys2Proof/Config.lean ====
section
/-! DEFINITION. The configuration record of 00_scope.md R9 and the free values the environment draws. -/

namespace Sys2Proof.Config

/-- The implementation parameters that R9 leaves open. TW, VW, HW and IW are fixed by R9 and are the widths of Word.lean. -/
structure Cfg where
  /-- `N`, the number of slots. -/
  n : Nat
  /-- `M`, the number of pin records. -/
  m : Nat
  /-- `MOD`, the modulus of the clock counter. -/
  mod : Nat
  /-- `TPM`, clock units per millisecond. -/
  tpm : Nat
  deriving DecidableEq, Repr

/-- The ranges R9 gives the parameters. -/
abbrev Cfg.Ok (c : Cfg) : Prop :=
  (1 ≤ c.n ∧ c.n ≤ 256) ∧ (1 ≤ c.m ∧ c.m ≤ 256) ∧ (2 ≤ c.mod ∧ c.mod ≤ 2 ^ 32) ∧ (1 ≤ c.tpm ∧ c.tpm < 2 ^ 32)

/-- `CFG_T`, the configuration of the spec's vectors (R9), with MOD and TPM at their defaults. DESIGN CHOICE (log 1): it is
also the configuration of `State.reset`, unsafe for a claim that rests on N = 4 or M = 4. -/
def Cfg.test : Cfg := { n := 4, m := 4, mod := 2 ^ 32, tpm := 1000 }

/-- FREE VALUE: the `k`-th clock sample that no input stream supplies (R96: a draw; log 3). -/
opaque freeClock : Nat → Time

/-- FREE VALUE: the `k`-th I/O read reply that no input stream supplies (R98: a draw; log 4). -/
opaque freeLevel : Nat → Level

end Sys2Proof.Config
end

