-- ==== Sys2Proof/Machine/State.lean ====
section
/-! DEFINITION. The state of the TCB (10_state.md R20 to R50) as plain data, the events a step emits (30_encoding.md R94 to R99),
and the reset state. -/

namespace Sys2Proof.Machine

/-- One entry of the slot table (R22). -/
structure Slot where
  /-- a handler is present: the slot is occupied (R23). -/
  occ : Bool
  /-- the handler identifier, opaque to the block (R24). -/
  hid : Word
  /-- requested duration between firings (R25). -/
  period : Time
  /-- tick time of the last firing, registration or change of period (R26). -/
  lastFired : Time
  /-- `repeat`: true periodic, false one-shot (R27). -/
  rep : Bool
  deriving DecidableEq, Repr

/-- One entry of the pin table (R30). There is no mode tag (R35). -/
structure Pin where
  /-- pulse asserted, or leading edge seen; 0 is the flag "not yet fired" (R31). -/
  firedAt : Time
  /-- capture requested; 0 is the flag "not an active capture" (R32). -/
  readingAt : Time
  /-- pulse duration, or tick time of the trailing edge (R33). -/
  delay : Time
  /-- level or duty value of the pulse or capture (R34). -/
  targetValue : Val
  deriving DecidableEq, Repr

/-- `PHASE` (R40). -/
inductive Phase where
  /-- 0: no tick in progress. -/
  | idle
  /-- 1: a tick is suspended on a dispatched handler. -/
  | handler
  deriving DecidableEq, Repr

/-- The status of a response (R240). -/
inductive Status where
  | ok
  | noSlot
  | eIndex
  | eIllegal
  | ePhase
  deriving DecidableEq, Repr

/-- What a step puts out (R94 to R99), and the two draws it takes, shown as events (R96, R98). -/
inductive Event where
  /-- `Clock(t)`: the sample an accepted TICK took (R96). -/
  | clock (t : Time)
  /-- `IoSetOutput(pin)`, kind 0 (R97). -/
  | ioSetOutput (pin : Idx)
  /-- `IoSetInput(pin)`, kind 1 (R97). -/
  | ioSetInput (pin : Idx)
  /-- `IoWrite(pin, level)`, kind 2 (R97). -/
  | ioWrite (pin : Idx) (level : Level)
  /-- `IoWriteDuty(pin, duty)`, kind 3 (R97). -/
  | ioWriteDuty (pin : Idx) (duty : Val)
  /-- `IoRead(pin)=r`, kind 4 with the driver's reply (R97, R98). -/
  | ioRead (pin : Idx) (reply : Level)
  /-- `Dispatch(slot, hid)` (R95). -/
  | dispatch (slot : Idx) (hid : Word)
  /-- `Resp(status, value)` (R94). -/
  | resp (status : Status) (value : Word)
  deriving DecidableEq, Repr

/-- The registers of the read-only register space (R63, R92). -/
inductive RegName where
  | now
  | quantum
  | phase
  | cur
  | slotOcc (i : Nat)
  | slotHid (i : Nat)
  | slotPeriod (i : Nat)
  | slotLastFired (i : Nat)
  | slotRepeat (i : Nat)
  | pinFiredAt (j : Nat)
  | pinReadingAt (j : Nat)
  | pinDelay (j : Nat)
  | pinTargetValue (j : Nat)
  deriving DecidableEq, Repr

/-- The one way a step stops. -/
inductive Fault where
  /-- Raised by DONE in phase HANDLER when CUR names no slot. The spec says CUR is then always below N (R41) and every step keeps
  that, so no run from reset raises it. Safe (log 7). -/
  | curOutsideTable
  deriving DecidableEq, Repr

/-- Why an instruction has no meaning. -/
inductive Refusal where
  /-- Raised by an arm of `exec` whose instruction has no meaning yet. Safe. No arm raises it in this model. -/
  | notModelled (mnemonic : String)
  deriving DecidableEq, Repr

/-- The block's state (R20), then what the model keeps beside it: the configuration (R9, R45; log 1) and the environment of
the step (R13, R99; logs 2 to 6). -/
structure State where
  /-- the slot table; its length is N (R22). -/
  slots : List Slot
  /-- the pin table; its length is M (R30). -/
  pins : List Pin
  /-- `NOW`, the tick time (R38). -/
  now : Time
  /-- `QUANTUM` (R39). -/
  quantum : Time
  /-- `PHASE` (R40). -/
  phase : Phase
  /-- `CUR`, the slot whose handler was dispatched last (R41). -/
  cur : Idx
  /-- configuration `MOD` (R9). -/
  mod : Nat
  /-- configuration `TPM` (R9). -/
  tpm : Nat
  /-- model's own: the words the host has still to deliver on the command port, next first (log 2). -/
  commands : List Command
  /-- model's own: the clock samples given to the run, next first (log 3). -/
  clockIn : List Time
  /-- model's own: the I/O read replies given to the run, next first (log 4). -/
  readIn : List Level
  /-- model's own: how many free values have been drawn (log 5). -/
  draws : Nat
  /-- model's own: the events of the step, in order (log 6). -/
  out : List Event
  deriving DecidableEq, Repr

/-- A slot after reset: free, every field 0 (R50). -/
def Slot.reset : Slot := { occ := false, hid := 0, period := 0, lastFired := 0, rep := false }

/-- A pin record after reset: idle, every field 0 (R50). -/
def Pin.reset : Pin := { firedAt := 0, readingAt := 0, delay := 0, targetValue := 0 }

/-- The configuration a state carries (R9). -/
def State.cfg (s : State) : Config.Cfg := { n := s.slots.length, m := s.pins.length, mod := s.mod, tpm := s.tpm }

/-- The block after reset under configuration `c` (R50, R280), with nothing delivered on its ports. -/
def State.initial (c : Config.Cfg) : State where
  slots := List.replicate c.n Slot.reset
  pins := List.replicate c.m Pin.reset
  now := 0
  quantum := 0
  phase := .idle
  cur := 0
  mod := c.mod
  tpm := c.tpm
  commands := []
  clockIn := []
  readIn := []
  draws := 0
  out := []

/-- The machine right after reset (R50), under the configuration of log 1. -/
def State.reset : State := State.initial Config.Cfg.test

end Sys2Proof.Machine
end

