-- ==== Sys2Proof/Machine/Flags.lean ====
section
/-! DEFINITION. The derived predicates of 10_state.md R43: the block has no stored flag. -/

namespace Sys2Proof.Machine

/-- `free(i)` (R43). -/
def Slot.free (x : Slot) : Bool := !x.occ

/-- The slot fires at tick time `now`: occupied and due (R196). -/
def Slot.fires (mod : Nat) (now : Time) (x : Slot) : Bool := x.occ && due mod x.lastFired now x.period

/-- `capturing(j)` (R43). -/
def Pin.capturing (p : Pin) : Bool := p.readingAt != 0

/-- `busy(j)` (R43). -/
def Pin.busy (p : Pin) : Bool := p.firedAt != 0 || p.readingAt != 0

/-- `asserted(j)` (R43). -/
def Pin.asserted (p : Pin) : Bool := p.readingAt == 0 && p.firedAt != 0

/-- `captureDone(j)` (R43). -/
def Pin.captureDone (p : Pin) : Bool := p.capturing && p.firedAt != 0 && p.delay != 0

/-- The number of occupied slots, which the block does not store (R28 (d)). -/
def State.occupied (s : State) : Nat := s.slots.countP (·.occ)

end Sys2Proof.Machine
end

