-- ==== Sys2Proof/Machine/Ops.lean ====
section
/-! DEFINITION. The named operations every meaning is written over: writes of the tables and scalars, events and responses
(30_encoding.md R94, R99; 60_exceptions.md R241), the two draws (R96, R98), the command port (R13), the dispatch of a handler and
its return (60_exceptions.md R251, R252), the register space (20_memory.md R60 to R64) and the reset event (70_reset_and_hazards.md
R280). -/

namespace Sys2Proof.Machine

/-! ### Events and responses -/

/-- `emit e` (R12): the event follows those already emitted in this step. -/
def State.emit (s : State) (e : Event) : State := { s with out := s.out ++ [e] }

/-- `respond(status, value)`: the response that ends a command (R94). -/
def State.respond (s : State) (st : Status) (v : Word) : State := s.emit (.resp st v)

/-- `raise <Status>`: the response alone, with value 0; no state changes (R11, R241). -/
def State.raise (s : State) (st : Status) : State := s.respond st 0

/-! ### Table and register writes -/

/-- `slot[i] <- x` (R11). -/
def State.setSlot (s : State) (i : Nat) (x : Slot) : State := { s with slots := s.slots.set i x }

/-- `pin[j] <- p` (R11). -/
def State.setPin (s : State) (j : Nat) (p : Pin) : State := { s with pins := s.pins.set j p }

/-- `QUANTUM <- elapsed(NOW, t); NOW <- t` (R190, R191). -/
def State.setTime (s : State) (t : Time) : State := { s with quantum := elapsed s.mod s.now t, now := t }

/-- `PHASE <- HANDLER; CUR <- i` (R199). -/
def State.suspend (s : State) (i : Nat) : State := { s with phase := .handler, cur := BitVec.ofNat 16 i }

/-- `PHASE <- IDLE`; CUR keeps its value (R207). -/
def State.goIdle (s : State) : State := { s with phase := .idle }

/-! ### The draws of a step -/

/-- `ClockSample()` (R96): the next sample of the input stream, or a free value where the stream is empty, in `[0, MOD)` (log 3). -/
def State.clockSample (s : State) : Time :=
  match s.clockIn with
  | t :: _ => BitVec.ofNat 32 (t.toNat % s.mod)
  | [] => BitVec.ofNat 32 ((Config.freeClock s.draws).toNat % s.mod)

/-- The sample is consumed (R96). -/
def State.dropSample (s : State) : State :=
  match s.clockIn with
  | _ :: rest => { s with clockIn := rest }
  | [] => { s with draws := s.draws + 1 }

/-- `IoRead(j)`'s reply (R98): the next bit of the input stream, or a free value where the stream is empty (log 4). -/
def State.readReply (s : State) : Level :=
  match s.readIn with
  | r :: _ => r
  | [] => Config.freeLevel s.draws

/-- The reply is consumed (R98). -/
def State.dropReply (s : State) : State :=
  match s.readIn with
  | _ :: rest => { s with readIn := rest }
  | [] => { s with draws := s.draws + 1 }

/-! ### The command port -/

/-- The word the host delivers next, if it delivers one (R13). -/
def State.nextCommand (s : State) : Option Command := s.commands.head?

/-- The word is taken from the port and a step begins, with no event emitted yet (R13). -/
def State.accept (s : State) : State := { s with commands := s.commands.tail, out := [] }

/-- No command has arrived: the block waits, and nothing happens (R13, R265, R269). -/
def State.wait (s : State) : State := { s with out := [] }

/-- The answer to an illegal word (R86, R243). -/
def State.illegal (s : State) : State := s.raise .eIllegal

/-! ### Lookup -/

/-- The first slot from index `i` on that satisfies `f`, with its record: the lists' order is the table's (R130, R198). -/
def firstFrom (f : Slot → Bool) : List Slot → Nat → Option (Nat × Slot)
  | [], _ => none
  | x :: xs, i => if f x then some (i, x) else firstFrom f xs (i + 1)

/-- `firstFree()`: the smallest index of a free slot (R130). -/
def State.firstFree (s : State) : Option Nat := (firstFrom Slot.free s.slots 0).map (·.1)

/-- The slot the scan from index `start` reaches first that fires (R195, R196). -/
def State.firstDue (s : State) (start : Nat) : Option (Nat × Slot) :=
  firstFrom (Slot.fires s.mod s.now) (s.slots.drop start) start

/-! ### Taking a dispatch, and the return from it -/

/-- Dispatch entry, the "trap entry" of this machine (R251, R197, R199): slot `i`, whose record is `x`, gets the tick time, PHASE and
CUR are written, the handler's identifier goes out, and the step ends. Nothing else is saved. -/
def State.dispatch (s : State) (i : Nat) (x : Slot) : State :=
  (((s.setSlot i { x with lastFired := s.now }).suspend i).emit (.dispatch (BitVec.ofNat 16 i) x.hid)).respond .ok 1

/-- What the return does to the slot that was handled, whose record is now `x`: a one-shot is freed (R201, R252). The scan then
resumes (`State.advance`, R195). -/
def State.releaseOneShot (s : State) (x : Slot) : State :=
  if x.rep then s else s.setSlot s.cur.toNat { x with occ := false }

/-! ### The register space -/

/-- The address of a register (R63, R92). -/
def RegName.address : RegName → Nat
  | .now => 0x0000
  | .quantum => 0x0001
  | .phase => 0x0002
  | .cur => 0x0003
  | .slotOcc i => 0x0100 + 8 * i + 0
  | .slotHid i => 0x0100 + 8 * i + 1
  | .slotPeriod i => 0x0100 + 8 * i + 2
  | .slotLastFired i => 0x0100 + 8 * i + 3
  | .slotRepeat i => 0x0100 + 8 * i + 4
  | .pinFiredAt j => 0x1000 + 4 * j + 0
  | .pinReadingAt j => 0x1000 + 4 * j + 1
  | .pinDelay j => 0x1000 + 4 * j + 2
  | .pinTargetValue j => 0x1000 + 4 * j + 3

/-- The register at offset `k` of slot `i`; offsets 5 to 7 are unmapped (R63). -/
def slotReg (i k : Nat) : Option RegName :=
  match k with
  | 0 => some (.slotOcc i)
  | 1 => some (.slotHid i)
  | 2 => some (.slotPeriod i)
  | 3 => some (.slotLastFired i)
  | 4 => some (.slotRepeat i)
  | _ => none

/-- The register at offset `k` of pin `j` (R63). -/
def pinReg (j k : Nat) : Option RegName :=
  match k with
  | 0 => some (.pinFiredAt j)
  | 1 => some (.pinReadingAt j)
  | 2 => some (.pinDelay j)
  | 3 => some (.pinTargetValue j)
  | _ => none

/-- The register mapped at an address, with `n` slots and `m` pins (R63). -/
def regAt (n m : Nat) (a : Nat) : Option RegName :=
  if a < 0x0100 then
    match a with
    | 0x0000 => some .now
    | 0x0001 => some .quantum
    | 0x0002 => some .phase
    | 0x0003 => some .cur
    | _ => none
  else if a < 0x1000 then
    if a < 0x0100 + 8 * n then slotReg ((a - 0x0100) / 8) ((a - 0x0100) % 8) else none
  else if a < 0x1000 + 4 * m then pinReg ((a - 0x1000) / 4) ((a - 0x1000) % 4)
  else none

/-- `PHASE` as a bit (R40). -/
def Phase.bit : Phase → BitVec 1
  | .idle => 0
  | .handler => 1

/-- The 32-bit value of a register, zero-extended (R60, R63), if the table has the entry. -/
def State.regValue (s : State) : RegName → Option Word
  | .now => some s.now
  | .quantum => some s.quantum
  | .phase => some (s.phase.bit.zeroExtend 32)
  | .cur => some (s.cur.zeroExtend 32)
  | .slotOcc i => s.slots[i]?.map fun x => (BitVec.ofBool x.occ).zeroExtend 32
  | .slotHid i => s.slots[i]?.map (·.hid)
  | .slotPeriod i => s.slots[i]?.map (·.period)
  | .slotLastFired i => s.slots[i]?.map (·.lastFired)
  | .slotRepeat i => s.slots[i]?.map fun x => (BitVec.ofBool x.rep).zeroExtend 32
  | .pinFiredAt j => s.pins[j]?.map (·.firedAt)
  | .pinReadingAt j => s.pins[j]?.map (·.readingAt)
  | .pinDelay j => s.pins[j]?.map (·.delay)
  | .pinTargetValue j => s.pins[j]?.map fun p => p.targetValue.zeroExtend 32

/-- `RegRead(a)`: the value at address `a`, or `none` for unmapped (R62, R64). -/
def State.regRead (s : State) (a : Idx) : Option Word := (regAt s.cfg.n s.cfg.m a.toNat).bind s.regValue

/-! ### The reset event -/

/-- The external reset event (R280): every piece of the block's state takes its reset value, no event is emitted; the configuration
and what the environment is about to deliver stay. It is no command and no step (log 12). -/
def State.resetEvent (s : State) : State :=
  { State.initial s.cfg with commands := s.commands, clockIn := s.clockIn, readIn := s.readIn, draws := s.draws }

end Sys2Proof.Machine
end

