-- ==== Sys2Proof/Machine/Operands.lean ====
section
/-! DEFINITION. The operand forms (30_encoding.md R85) with the bounds checks of 60_exceptions.md R245: a slot given by index, a slot
chosen by the block (`auto`), and a pin given by index. -/

namespace Sys2Proof.Machine

/-- Slot index operand: the record it names, or `none` exactly when `idx >= N` (R85, R245). -/
def State.slotAt (s : State) (idx : Idx) : Option Slot := if idx.toNat < s.cfg.n then s.slots[idx.toNat]? else none

/-- Pin index operand: the record it names, or `none` exactly when `idx >= M` (R85, R245). -/
def State.pinAt (s : State) (idx : Idx) : Option Pin := if idx.toNat < s.cfg.m then s.pins[idx.toNat]? else none

/-- The slot a registration installs into: the one given, or the first free one for `auto`; or the status that says why there is
none (R131). -/
def State.target (s : State) : Option Idx → Except Status Nat
  | some idx => if idx.toNat < s.cfg.n then .ok idx.toNat else .error .eIndex
  | none =>
    match s.firstFree with
    | some i => .ok i
    | none => .error .noSlot

/-- Duration operand: `A` in clock units, or in milliseconds (R85, R115). -/
def State.duration (s : State) (ms : Bool) (a : Word) : Time := scale s.tpm ms a

end Sys2Proof.Machine
end

