-- ==== Sys2Proof/Machine/Pins.lean ====
section
/-! DEFINITION. The pin state machine commands (42_pin_commands.md R160 to R178). -/

namespace Sys2Proof.Machine

/-- The assertion write of a pulse: `IoWrite` of `val[0]`, or `IoWriteDuty` of `val` when `an = 1` (R161). -/
def assertEvent (an : Bool) (idx : Idx) (val : Val) : Event :=
  match an with
  | false => .ioWrite idx (valLevel val)
  | true => .ioWriteDuty idx val

/-- `pulse(ms, an)` (R161): direction, level, then three fields of the record; `readingAt` is not written. -/
def State.pulse (s : State) (ms an : Bool) (val : Val) (idx : Idx) (a : Word) : State :=
  match s.pinAt idx with
  | none => s.raise .eIndex
  | some p =>
    (((s.emit (.ioSetOutput idx)).emit (assertEvent an idx val)).setPin idx.toNat
      { p with firedAt := s.now, delay := s.duration ms a, targetValue := val }).respond .ok 0

/-- `PULSE pin, duration, level` (R163). -/
def execPulse (val : Val) (idx : Idx) (a : Word) (s : State) : Host.Outcome State Fault Refusal :=
  .next (s.pulse false false val idx a)

/-- `PULSE.MS pin, millis, level` (R164). -/
def execPulseMs (val : Val) (idx : Idx) (a : Word) (s : State) : Host.Outcome State Fault Refusal :=
  .next (s.pulse true false val idx a)

/-- `PULSE.A pin, duration, duty` (R165). -/
def execPulseA (val : Val) (idx : Idx) (a : Word) (s : State) : Host.Outcome State Fault Refusal :=
  .next (s.pulse false true val idx a)

/-- `PULSE.MS.A pin, millis, duty` (R166). -/
def execPulseMsA (val : Val) (idx : Idx) (a : Word) (s : State) : Host.Outcome State Fault Refusal :=
  .next (s.pulse true true val idx a)

/-- `PULSEIN pin, level` (R170): the record becomes a clean capture; the pin is not read. -/
def execPulsein (val : Val) (idx : Idx) (s : State) : Host.Outcome State Fault Refusal :=
  match s.pinAt idx with
  | none => .next (s.raise .eIndex)
  | some _ =>
    .next (((s.emit (.ioSetInput idx)).setPin idx.toNat
      { firedAt := 0, readingAt := s.now, delay := 0, targetValue := levelVal (valLevel val) }).respond .ok 0)

/-- `ISBUSY pin` (R173). -/
def execIsbusy (idx : Idx) (s : State) : Host.Outcome State Fault Refusal :=
  match s.pinAt idx with
  | none => .next (s.raise .eIndex)
  | some p => .next (s.respond .ok ((BitVec.ofBool p.busy).zeroExtend 32))

/-- The three time fields at 0; `targetValue` stays (R175, R176). -/
def Pin.cleared (p : Pin) : Pin := { p with firedAt := 0, readingAt := 0, delay := 0 }

/-- `CLRP pin` (R175): no I/O event. -/
def execClrp (idx : Idx) (s : State) : Host.Outcome State Fault Refusal :=
  match s.pinAt idx with
  | none => .next (s.raise .eIndex)
  | some p => .next ((s.setPin idx.toNat p.cleared).respond .ok 0)

/-- `CLRP.F pin, level` (R176): one `IoWrite`, no `IoSetOutput`. -/
def execClrpF (val : Val) (idx : Idx) (s : State) : Host.Outcome State Fault Refusal :=
  match s.pinAt idx with
  | none => .next (s.raise .eIndex)
  | some p => .next (((s.setPin idx.toNat p.cleared).emit (.ioWrite idx (valLevel val))).respond .ok 0)

end Sys2Proof.Machine
end

