-- ==== Sys2Proof/Machine/Registers.lean ====
section
/-! DEFINITION. The register read command (44_register_read.md): RD. -/

namespace Sys2Proof.Machine

/-- `RD addr` (R230): the register's value, or E_INDEX for an unmapped address (R231). -/
def execRd (idx : Idx) (s : State) : Host.Outcome State Fault Refusal :=
  match s.regRead idx with
  | none => .next (s.raise .eIndex)
  | some v => .next (s.respond .ok v)

end Sys2Proof.Machine
end

