-- ==== Sys2Proof/Machine/Slots.lean ====
section
/-! DEFINITION. The callback slot table commands (41_slot_commands.md R130 to R146). -/

namespace Sys2Proof.Machine

/-- `register(rep, ms, auto)` (R131): the five fields of the target slot are written and its index is answered. -/
def State.register (s : State) (rep ms : Bool) (sel : Option Idx) (a b : Word) : State :=
  match s.target sel with
  | .error st => s.raise st
  | .ok i =>
    (s.setSlot i { occ := true, hid := b, period := s.duration ms a, lastFired := s.now, rep := rep }).respond .ok
      (BitVec.ofNat 32 i)

/-- `REGP slot, period, hid` (R133). -/
def execRegp (idx : Idx) (a b : Word) (s : State) : Host.Outcome State Fault Refusal :=
  .next (s.register true false (some idx) a b)

/-- `REGP.AUTO period, hid` (R134). -/
def execRegpAuto (a b : Word) (s : State) : Host.Outcome State Fault Refusal :=
  .next (s.register true false none a b)

/-- `REGP.MS slot, millis, hid` (R135). -/
def execRegpMs (idx : Idx) (a b : Word) (s : State) : Host.Outcome State Fault Refusal :=
  .next (s.register true true (some idx) a b)

/-- `REGP.MS.AUTO millis, hid` (R136). -/
def execRegpMsAuto (a b : Word) (s : State) : Host.Outcome State Fault Refusal :=
  .next (s.register true true none a b)

/-- `REG1 slot, period, hid` (R137). -/
def execReg1 (idx : Idx) (a b : Word) (s : State) : Host.Outcome State Fault Refusal :=
  .next (s.register false false (some idx) a b)

/-- `REG1.AUTO period, hid` (R138). -/
def execReg1Auto (a b : Word) (s : State) : Host.Outcome State Fault Refusal :=
  .next (s.register false false none a b)

/-- `REG1.MS slot, millis, hid` (R139). -/
def execReg1Ms (idx : Idx) (a b : Word) (s : State) : Host.Outcome State Fault Refusal :=
  .next (s.register false true (some idx) a b)

/-- `REG1.MS.AUTO millis, hid` (R140). -/
def execReg1MsAuto (a b : Word) (s : State) : Host.Outcome State Fault Refusal :=
  .next (s.register false true none a b)

/-- `CHGP slot, period` (R142): period and lastFired are written, on a free slot too. -/
def execChgp (idx : Idx) (a : Word) (s : State) : Host.Outcome State Fault Refusal :=
  match s.slotAt idx with
  | none => .next (s.raise .eIndex)
  | some x => .next ((s.setSlot idx.toNat { x with period := a, lastFired := s.now }).respond .ok 0)

/-- `CLRS slot` (R144): only `occ` is written. -/
def execClrs (idx : Idx) (s : State) : Host.Outcome State Fault Refusal :=
  match s.slotAt idx with
  | none => .next (s.raise .eIndex)
  | some x => .next ((s.setSlot idx.toNat { x with occ := false }).respond .ok 0)

/-- `FREE` (R146): lookup only. -/
def execFree (s : State) : Host.Outcome State Fault Refusal :=
  match s.firstFree with
  | none => .next (s.raise .noSlot)
  | some i => .next (s.respond .ok (BitVec.ofNat 32 i))

end Sys2Proof.Machine
end

