-- ==== Sys2Proof/Machine/Tick.lean ====
section
/-! DEFINITION. The tick driver (43_tick_dispatch.md R190 to R211): TICK, DONE, the slot scan and the pin scan. -/

namespace Sys2Proof.Machine

/-- The record after a capture reading `r` at tick time `now`: leading edge, trailing edge, or nothing new (R206). -/
def Pin.observe (now : Time) (r : Level) (p : Pin) : Pin :=
  if p.firedAt = 0 then
    if levelVal r = p.targetValue then { p with firedAt := now } else p
  else if p.delay = 0 ∧ r = linv p.targetValue then { p with delay := now }
  else p

/-- `captureStep(j)` (R206): one read, whatever the capture's progress. -/
def State.captureStep (s : State) (j : Nat) (p : Pin) : State :=
  (s.dropReply.emit (.ioRead (BitVec.ofNat 16 j) s.readReply)).setPin j (p.observe s.now s.readReply)

/-- `pulseStep(j)` (R208): the release is always a digital write. -/
def State.pulseStep (s : State) (j : Nat) (p : Pin) : State :=
  if due s.mod p.firedAt s.now p.delay then
    (s.emit (.ioWrite (BitVec.ofNat 16 j) (linv p.targetValue))).setPin j { p with firedAt := 0, delay := 0 }
  else s

/-- `pinStep(j)` (R205): the branch is chosen by the record alone, the capture test first. -/
def State.pinStep (s : State) (j : Nat) : State :=
  match s.pins[j]? with
  | none => s
  | some p => if p.capturing then s.captureStep j p else if p.asserted then s.pulseStep j p else s

/-- The pin scan: `pinStep(j)` for `j = 0, 1, ..., M-1` (R204). -/
def State.pinScan (s : State) : State := (List.range s.cfg.m).foldl State.pinStep s

/-- `advance(start)` (R195): dispatch the first firing slot from `start` on, or scan the pins and end the tick (R207). -/
def State.advance (s : State) (start : Nat) : State :=
  match s.firstDue start with
  | some (i, x) => s.dispatch i x
  | none => s.pinScan.goIdle.respond .ok 0

/-- `TICK` (R190). -/
def execTick (s : State) : Host.Outcome State Fault Refusal :=
  match s.phase with
  | .handler => .next (s.raise .ePhase)
  | .idle => .next (((s.dropSample.emit (.clock s.clockSample)).setTime s.clockSample).advance 0)

/-- `DONE` (R200). With CUR outside the table, which the spec excludes (R41), it faults (log 7). -/
def execDone (s : State) : Host.Outcome State Fault Refusal :=
  match s.phase with
  | .idle => .next (s.raise .ePhase)
  | .handler =>
    match s.slots[s.cur.toNat]? with
    | none => .fault .curOutsideTable
    | some x => .next ((s.releaseOneShot x).advance (s.cur.toNat + 1))

end Sys2Proof.Machine
end

