-- ==== Sys2Proof/Machine/Time.lean ====
section
/-! DEFINITION. The time arithmetic family (40_time_arithmetic.md): ELAPSED. -/

namespace Sys2Proof.Machine

/-- `ELAPSED from, to` (R118). -/
def execElapsed (a b : Word) (s : State) : Host.Outcome State Fault Refusal :=
  .next (s.respond .ok (elapsed s.mod a b))

end Sys2Proof.Machine
end

