-- ==== Sys2Proof/Machine/Dispatch.lean ====
section
/-! DEFINITION. One arm per instruction of 30_encoding.md R83. -/

namespace Sys2Proof.Machine

def exec (i : Instr) (s : State) : Host.Outcome State Fault Refusal :=
  match i with
  | .tick => Sys2Proof.Machine.execTick s
  | .regp idx a b => Sys2Proof.Machine.execRegp idx a b s
  | .regpAuto a b => Sys2Proof.Machine.execRegpAuto a b s
  | .regpMs idx a b => Sys2Proof.Machine.execRegpMs idx a b s
  | .regpMsAuto a b => Sys2Proof.Machine.execRegpMsAuto a b s
  | .reg1 idx a b => Sys2Proof.Machine.execReg1 idx a b s
  | .reg1Auto a b => Sys2Proof.Machine.execReg1Auto a b s
  | .reg1Ms idx a b => Sys2Proof.Machine.execReg1Ms idx a b s
  | .reg1MsAuto a b => Sys2Proof.Machine.execReg1MsAuto a b s
  | .chgp idx a => Sys2Proof.Machine.execChgp idx a s
  | .clrs idx => Sys2Proof.Machine.execClrs idx s
  | .free => Sys2Proof.Machine.execFree s
  | .pulse val idx a => Sys2Proof.Machine.execPulse val idx a s
  | .pulseMs val idx a => Sys2Proof.Machine.execPulseMs val idx a s
  | .pulseA val idx a => Sys2Proof.Machine.execPulseA val idx a s
  | .pulseMsA val idx a => Sys2Proof.Machine.execPulseMsA val idx a s
  | .pulsein val idx => Sys2Proof.Machine.execPulsein val idx s
  | .isbusy idx => Sys2Proof.Machine.execIsbusy idx s
  | .clrp idx => Sys2Proof.Machine.execClrp idx s
  | .clrpF val idx => Sys2Proof.Machine.execClrpF val idx s
  | .elapsed a b => Sys2Proof.Machine.execElapsed a b s
  | .rd idx => Sys2Proof.Machine.execRd idx s
  | .done => Sys2Proof.Machine.execDone s

end Sys2Proof.Machine
end

