-- ==== Sys2Proof/Machine/Step.lean ====
section
/-! DEFINITION. One step of the block (00_scope.md R13): take one command word, decode it (60_exceptions.md R246: decode first), run it. -/

namespace Sys2Proof.Machine

/-- One step (R13). An illegal word is answered with E_ILLEGAL (R243); with no word on the port the block waits. -/
def step (s : State) : Host.Outcome State Fault Refusal :=
  match s.nextCommand with
  | none => .next s.wait
  | some w =>
    match decode w with
    | .ok i => exec i s.accept
    | .error _ => .next s.accept.illegal

/-- The instruction of the bits `w`, delivered by the host as the next word on the command port, before those already there
(log 2, log 11). -/
def State.withFetchWord (s : State) (nbits w : Nat) : State :=
  { s with commands := BitVec.ofNat 96 (w % 2 ^ nbits) :: s.commands }

end Sys2Proof.Machine
end

