-- ==== Sys2Proof/Machine/Asm.lean ====
section
/-! DEFINITION. The assembly form of the commands (30_encoding.md R90 to R92) on tokens: mnemonics, operand order, register names and
the pseudo-forms. Machine/Lexer.lean makes the tokens of a line's characters. -/

namespace Sys2Proof.Machine

/-- An operand as it is written (R90, R91, R92). -/
inductive Token where
  /-- a number, decimal or hexadecimal. -/
  | num (n : Nat)
  /-- `LOW`. -/
  | low
  /-- `HIGH`. -/
  | high
  /-- `AUTO`, in a pseudo-form of a registration (R91). -/
  | auto
  /-- `KEEP`, in the pseudo-form of CLRP (R91). -/
  | keep
  /-- a register name, for RD (R92). -/
  | reg (r : RegName)
  deriving DecidableEq, Repr

/-- A number of `w` bits. -/
def Token.bits (w : Nat) : Token → Option (BitVec w)
  | .num n => if n < 2 ^ w then some (BitVec.ofNat w n) else none
  | _ => none

/-- A level: `LOW`, `HIGH`, `0` or `1` (R90). -/
def Token.level : Token → Option Val
  | .low => some 0
  | .high => some 1
  | .num n => if n ≤ 1 then some (BitVec.ofNat 8 n) else none
  | _ => none

/-- A register address, or a register name (R90, R92). A name is one of the map of R63 for the largest tables of R9: an index is
at most 255 (log 13). -/
def Token.addr : Token → Option Idx
  | .reg r => if regAt 256 256 r.address = some r then some (BitVec.ofNat 16 r.address) else none
  | t => t.bits 16

/-- `slot, period, hid`. -/
def asm3 (f : Idx → Word → Word → Instr) : List Token → Option Instr
  | [i, a, b] => do
    let i ← i.bits 16
    let a ← a.bits 32
    let b ← b.bits 32
    return f i a b
  | _ => none

/-- `period, hid`, or `from, to`. -/
def asm2 (f : Word → Word → Instr) : List Token → Option Instr
  | [a, b] => do
    let a ← a.bits 32
    let b ← b.bits 32
    return f a b
  | _ => none

/-- A registration with the pseudo-form `AUTO, period, hid` (R91). -/
def asmReg (f : Idx → Word → Word → Instr) (g : Word → Word → Instr) : List Token → Option Instr
  | .auto :: ts => asm2 g ts
  | ts => asm3 f ts

/-- `pin, duration, value`, the value read by `v`. -/
def asmPulse (v : Token → Option Val) (f : Val → Idx → Word → Instr) : List Token → Option Instr
  | [i, a, l] => do
    let i ← i.bits 16
    let a ← a.bits 32
    let l ← v l
    return f l i a
  | _ => none

/-- `pin, level`. -/
def asmPinLevel (f : Val → Idx → Instr) : List Token → Option Instr
  | [i, l] => do
    let i ← i.bits 16
    let l ← l.level
    return f l i
  | _ => none

/-- One index. -/
def asm1 (f : Idx → Instr) : List Token → Option Instr
  | [i] => (i.bits 16).map f
  | _ => none

/-- `CLRP pin`, with the pseudo-forms `CLRP pin, KEEP` and `CLRP pin, level` (R91). -/
def asmClrp : List Token → Option Instr
  | [i, .keep] => (i.bits 16).map .clrp
  | [i, l] => asmPinLevel .clrpF [i, l]
  | ts => asm1 .clrp ts

/-- The command a line of assembly stands for (R90, R91). -/
def assemble (m : Mnemonic) (ts : List Token) : Option Instr :=
  match m with
  | .TICK => if ts = [] then some .tick else none
  | .REGP => asmReg .regp .regpAuto ts
  | .REGP_AUTO => asm2 .regpAuto ts
  | .REGP_MS => asmReg .regpMs .regpMsAuto ts
  | .REGP_MS_AUTO => asm2 .regpMsAuto ts
  | .REG1 => asmReg .reg1 .reg1Auto ts
  | .REG1_AUTO => asm2 .reg1Auto ts
  | .REG1_MS => asmReg .reg1Ms .reg1MsAuto ts
  | .REG1_MS_AUTO => asm2 .reg1MsAuto ts
  | .CHGP =>
    match ts with
    | [i, a] => do
      let i ← i.bits 16
      let a ← a.bits 32
      return .chgp i a
    | _ => none
  | .CLRS => asm1 .clrs ts
  | .FREE => if ts = [] then some .free else none
  | .PULSE => asmPulse Token.level .pulse ts
  | .PULSE_MS => asmPulse Token.level .pulseMs ts
  | .PULSE_A => asmPulse (Token.bits 8) .pulseA ts
  | .PULSE_MS_A => asmPulse (Token.bits 8) .pulseMsA ts
  | .PULSEIN => asmPinLevel .pulsein ts
  | .ISBUSY => asm1 .isbusy ts
  | .CLRP => asmClrp ts
  | .CLRP_F => asmPinLevel .clrpF ts
  | .ELAPSED => asm2 .elapsed ts
  | .RD =>
    match ts with
    | [t] => t.addr.map .rd
    | _ => none
  | .DONE => if ts = [] then some .done else none

/-- The operands of an instruction in the order R90 writes them. -/
def tokensOf : Instr → List Token
  | .tick => []
  | .regp i a b => [.num i.toNat, .num a.toNat, .num b.toNat]
  | .regpAuto a b => [.num a.toNat, .num b.toNat]
  | .regpMs i a b => [.num i.toNat, .num a.toNat, .num b.toNat]
  | .regpMsAuto a b => [.num a.toNat, .num b.toNat]
  | .reg1 i a b => [.num i.toNat, .num a.toNat, .num b.toNat]
  | .reg1Auto a b => [.num a.toNat, .num b.toNat]
  | .reg1Ms i a b => [.num i.toNat, .num a.toNat, .num b.toNat]
  | .reg1MsAuto a b => [.num a.toNat, .num b.toNat]
  | .chgp i a => [.num i.toNat, .num a.toNat]
  | .clrs i => [.num i.toNat]
  | .free => []
  | .pulse v i a => [.num i.toNat, .num a.toNat, .num v.toNat]
  | .pulseMs v i a => [.num i.toNat, .num a.toNat, .num v.toNat]
  | .pulseA v i a => [.num i.toNat, .num a.toNat, .num v.toNat]
  | .pulseMsA v i a => [.num i.toNat, .num a.toNat, .num v.toNat]
  | .pulsein v i => [.num i.toNat, .num v.toNat]
  | .isbusy i => [.num i.toNat]
  | .clrp i => [.num i.toNat]
  | .clrpF v i => [.num i.toNat, .num v.toNat]
  | .elapsed a b => [.num a.toNat, .num b.toNat]
  | .rd i => [.num i.toNat]
  | .done => []

/-- The mnemonic as R83 spells it. -/
def mnemonicText : Mnemonic → String
  | .TICK => "TICK"
  | .REGP => "REGP"
  | .REGP_AUTO => "REGP.AUTO"
  | .REGP_MS => "REGP.MS"
  | .REGP_MS_AUTO => "REGP.MS.AUTO"
  | .REG1 => "REG1"
  | .REG1_AUTO => "REG1.AUTO"
  | .REG1_MS => "REG1.MS"
  | .REG1_MS_AUTO => "REG1.MS.AUTO"
  | .CHGP => "CHGP"
  | .CLRS => "CLRS"
  | .FREE => "FREE"
  | .PULSE => "PULSE"
  | .PULSE_MS => "PULSE.MS"
  | .PULSE_A => "PULSE.A"
  | .PULSE_MS_A => "PULSE.MS.A"
  | .PULSEIN => "PULSEIN"
  | .ISBUSY => "ISBUSY"
  | .CLRP => "CLRP"
  | .CLRP_F => "CLRP.F"
  | .ELAPSED => "ELAPSED"
  | .RD => "RD"
  | .DONE => "DONE"

end Sys2Proof.Machine
end

