-- ==== Sys2Proof/Machine/Lexer.lean ====
section
/-! DEFINITION. A line of assembly as characters (30_encoding.md R90, R92): comment, blanks, mnemonic, operands between commas,
decimal and hexadecimal numbers, register names. -/

namespace Sys2Proof.Machine

/-- A blank. -/
def isBlank (c : Char) : Bool := c = ' ' || c = '\t'

/-- The characters without the blanks at either end. -/
def strip (cs : List Char) : List Char := ((cs.dropWhile isBlank).reverse.dropWhile isBlank).reverse

/-- The value of a decimal digit. -/
def decDigit (c : Char) : Option Nat := if '0' ≤ c ∧ c ≤ '9' then some (c.toNat - '0'.toNat) else none

/-- The value of a hexadecimal digit, in either case. -/
def hexDigit (c : Char) : Option Nat :=
  if 'A' ≤ c ∧ c ≤ 'F' then some (c.toNat - 'A'.toNat + 10)
  else if 'a' ≤ c ∧ c ≤ 'f' then some (c.toNat - 'a'.toNat + 10)
  else decDigit c

/-- The number a row of digits writes, after the value `acc` of the digits before it. -/
def digits (base : Nat) (digit : Char → Option Nat) : List Char → Nat → Option Nat
  | [], acc => some acc
  | c :: cs, acc => (digit c).bind fun d => digits base digit cs (acc * base + d)

/-- A number: decimal, or `0x` and hexadecimal digits (R90); at least one digit. -/
def number : List Char → Option Nat
  | [] => none
  | ['0', 'x'] => none
  | '0' :: 'x' :: cs => digits 16 hexDigit cs 0
  | cs => digits 10 decDigit cs 0

/-- A slot's register by the name of its field (R92). -/
def slotField (i : Nat) (field : String) : Option RegName :=
  match field with
  | "OCC" => some (.slotOcc i)
  | "HID" => some (.slotHid i)
  | "PERIOD" => some (.slotPeriod i)
  | "LASTFIRED" => some (.slotLastFired i)
  | "REPEAT" => some (.slotRepeat i)
  | _ => none

/-- A pin's register by the name of its field (R92). -/
def pinField (j : Nat) (field : String) : Option RegName :=
  match field with
  | "FIREDAT" => some (.pinFiredAt j)
  | "READINGAT" => some (.pinReadingAt j)
  | "DELAY" => some (.pinDelay j)
  | "TARGETVALUE" => some (.pinTargetValue j)
  | _ => none

/-- What follows the opening bracket of a register name: `i].FIELD`, the field read by `named` (R92). DESIGN CHOICE (log 13): the
index is a number as R90 writes any other, decimal or `0x`, with at least one digit; R92 does not say how it is written. -/
def indexedField (named : Nat → String → Option RegName) (cs : List Char) : Option RegName :=
  match cs.dropWhile (· ≠ ']') with
  | ']' :: '.' :: field => (number (cs.takeWhile (· ≠ ']'))).bind fun i => named i (String.ofList field)
  | _ => none

/-- A register name (R92). -/
def registerName : List Char → Option RegName
  | ['N', 'O', 'W'] => some .now
  | ['Q', 'U', 'A', 'N', 'T', 'U', 'M'] => some .quantum
  | ['P', 'H', 'A', 'S', 'E'] => some .phase
  | ['C', 'U', 'R'] => some .cur
  | 'S' :: 'L' :: 'O' :: 'T' :: '[' :: cs => indexedField slotField cs
  | 'P' :: 'I' :: 'N' :: '[' :: cs => indexedField pinField cs
  | _ => none

/-- One operand (R90, R91, R92). -/
def token : List Char → Option Token
  | ['L', 'O', 'W'] => some .low
  | ['H', 'I', 'G', 'H'] => some .high
  | ['A', 'U', 'T', 'O'] => some .auto
  | ['K', 'E', 'E', 'P'] => some .keep
  | cs =>
    match number cs with
    | some n => some (.num n)
    | none => (registerName cs).map .reg

/-- The operands: what stands between commas (R90). -/
def operands (cs : List Char) : Option (List Token) :=
  if cs = [] then some [] else (cs.splitOn ',').mapM fun o => token (strip o)

/-- The mnemonic spelled so (R83). -/
def mnemonicOf (cs : List Char) : Option Mnemonic :=
  (opcodeMap.map (·.mnemonic)).find? fun m => (mnemonicText m).toList = cs

/-- What a line is. -/
inductive Line where
  /-- nothing but blanks and a comment. -/
  | blank
  /-- one command. -/
  | command (i : Instr)
  /-- no line of R90 to R92. -/
  | malformed
  deriving DecidableEq, Repr

/-- A line of assembly: `MNEMONIC operand, operand, ... ; comment` (R90). -/
def assembleLine (line : String) : Line :=
  let cs := strip (line.toList.takeWhile (· ≠ ';'))
  if cs = [] then .blank
  else
    let instr := do
      let m ← mnemonicOf (cs.takeWhile fun c => !isBlank c)
      let ts ← operands (strip (cs.dropWhile fun c => !isBlank c))
      assemble m ts
    match instr with
    | some i => .command i
    | none => .malformed

end Sys2Proof.Machine
end

