-- ==== Sys2Proof/Machine/Ports.lean ====
section
/-! DEFINITION. The words on the output ports: the 36-bit response (30_encoding.md R94), the 48-bit dispatch (R95) and the 27-bit I/O
driver event (R97). -/

namespace Sys2Proof.Machine

/-- The status number (R240). -/
def Status.code : Status → BitVec 4
  | .ok => 0
  | .noSlot => 1
  | .eIndex => 2
  | .eIllegal => 3
  | .ePhase => 4

/-- `RSP[35:32] = status`, `RSP[31:0] = value` (R94). -/
def respWord (st : Status) (v : Word) : BitVec 36 := st.code ++ v

/-- `DSP[47:32] = slot`, `DSP[31:0] = hid` (R95). -/
def dispatchWord (slot : Idx) (hid : Word) : BitVec 48 := slot ++ hid

/-- `{kind[2:0], pin[15:0], val[7:0]}` (R97). -/
def ioWord (kind : BitVec 3) (pin : Idx) (val : Val) : BitVec 27 := kind ++ pin ++ val

/-- The word of an I/O driver event (R97); the other events are not calls of the driver. -/
def Event.ioWord? : Event → Option (BitVec 27)
  | .ioSetOutput p => some (ioWord 0 p 0)
  | .ioSetInput p => some (ioWord 1 p 0)
  | .ioWrite p l => some (ioWord 2 p (l.zeroExtend 8))
  | .ioWriteDuty p d => some (ioWord 3 p d)
  | .ioRead p _ => some (ioWord 4 p 0)
  | .clock _ => none
  | .dispatch _ _ => none
  | .resp _ _ => none

/-- The word of a response or dispatch event, on its own port. -/
def Event.respWord? : Event → Option (BitVec 36)
  | .resp st v => some (respWord st v)
  | _ => none

/-- The word of a dispatch event (R95). -/
def Event.dispatchWord? : Event → Option (BitVec 48)
  | .dispatch i h => some (dispatchWord i h)
  | _ => none

end Sys2Proof.Machine
end

