-- ==== Sys2Proof/Safety.lean ====
section
/-! DEFINITION. The invariants of the block and the terms in which statements say what a command leaves alone. -/

namespace Sys2Proof.Machine

/-- What every state of a run satisfies: the configuration is one of R9; NOW, QUANTUM, the lastFired fields and the pin time
fields that hold times are in `[0, MOD)` (R26, R38, R39; NOW is all that is ever written into firedAt and readingAt, R31, R32);
while PHASE = HANDLER, CUR names a slot (R41). -/
abbrev State.Inv (s : State) : Prop :=
  s.cfg.Ok ∧ s.now.toNat < s.mod ∧ s.quantum.toNat < s.mod ∧ (∀ x ∈ s.slots, x.lastFired.toNat < s.mod) ∧
    (∀ p ∈ s.pins, p.firedAt.toNat < s.mod ∧ p.readingAt.toNat < s.mod) ∧ (s.phase = .handler → s.cur.toNat < s.slots.length)

/-- While a handler is outstanding its slot holds the tick time (R197; R142 (c); R230). -/
abbrev State.Stamped (s : State) : Prop :=
  s.phase = .handler → (s.slots[s.cur.toNat]?).map (·.lastFired) = some s.now

/-- A run of `k` steps that meets no fault and no refusal. -/
def State.SafeRun (k : Nat) (s : State) : Prop := ∃ t, Host.Core.run Sys2Proof.core k s = .next t

/-- The configuration is the same (R45). -/
def SameCfg (s t : State) : Prop := t.mod = s.mod ∧ t.tpm = s.tpm

/-- NOW, QUANTUM, PHASE and CUR are the same. -/
def SameScalars (s t : State) : Prop := t.now = s.now ∧ t.quantum = s.quantum ∧ t.phase = s.phase ∧ t.cur = s.cur

/-- Nothing was taken from the environment: no command word, no clock sample, no read reply. -/
def SameInputs (s t : State) : Prop :=
  t.commands = s.commands ∧ t.clockIn = s.clockIn ∧ t.readIn = s.readIn ∧ t.draws = s.draws

/-- Every slot but slot `i` is the same, and the table has the same entries. -/
def SameSlotsBut (i : Nat) (s t : State) : Prop :=
  t.slots.length = s.slots.length ∧ ∀ k, k ≠ i → t.slots[k]? = s.slots[k]?

/-- Every pin record but record `j` is the same, and the table has the same entries. -/
def SamePinsBut (j : Nat) (s t : State) : Prop :=
  t.pins.length = s.pins.length ∧ ∀ k, k ≠ j → t.pins[k]? = s.pins[k]?

/-- The whole frame of a command that only reads: every field but the emitted events is the same. -/
def OnlyEmits (evs : List Event) (s t : State) : Prop :=
  t.slots = s.slots ∧ t.pins = s.pins ∧ SameScalars s t ∧ SameCfg s t ∧ SameInputs s t ∧ t.out = s.out ++ evs

/-- The whole frame of a command that writes slot `i` alone. -/
def WritesSlot (i : Nat) (x : Slot) (evs : List Event) (s t : State) : Prop :=
  t.slots[i]? = some x ∧ SameSlotsBut i s t ∧ t.pins = s.pins ∧ SameScalars s t ∧ SameCfg s t ∧ SameInputs s t ∧
    t.out = s.out ++ evs

/-- The whole frame of a command that writes pin record `j` alone. -/
def WritesPin (j : Nat) (p : Pin) (evs : List Event) (s t : State) : Prop :=
  t.pins[j]? = some p ∧ SamePinsBut j s t ∧ t.slots = s.slots ∧ SameScalars s t ∧ SameCfg s t ∧ SameInputs s t ∧
    t.out = s.out ++ evs

/-- The command is refused: the response with value 0 is emitted, and nothing else happens (R241). -/
def RefusedWith (st : Status) (i : Instr) (s : State) : Prop := exec i s = .next { s with out := s.out ++ [.resp st 0] }

/-- The command's response never has that status. -/
def NeverAnswers (st : Status) (i : Instr) (s : State) : Prop :=
  ∀ t evs v, exec i s = .next t → t.out = s.out ++ evs → Event.resp st v ∉ evs

/-- The commands that take a slot index (R240). -/
def slotIndexed (idx : Idx) (a b : Word) : List Instr :=
  [.regp idx a b, .regpMs idx a b, .reg1 idx a b, .reg1Ms idx a b, .chgp idx a, .clrs idx]

/-- The commands that take a pin index (R240). -/
def pinIndexed (v : Val) (idx : Idx) (a : Word) : List Instr :=
  [.pulse v idx a, .pulseMs v idx a, .pulseA v idx a, .pulseMsA v idx a, .pulsein v idx, .isbusy idx, .clrp idx, .clrpF v idx]

/-- The commands that take neither an index nor an address (R245, R246). -/
def unindexed (a b : Word) : List Instr :=
  [.tick, .done, .free, .elapsed a b, .regpAuto a b, .regpMsAuto a b, .reg1Auto a b, .reg1MsAuto a b]

/-- What the pin scan at tick time `now` makes of record `p` of pin `j`, `r` being the driver's reply where it is asked: the new
record `q` and the events (R205, R206, R208). -/
structure PinScanned (mod : Nat) (now : Time) (j : Nat) (r : Level) (p q : Pin) (evs : List Event) : Prop where
  /-- an idle pin: nothing (R205). -/
  idle : p.readingAt = 0 → p.firedAt = 0 → q = p ∧ evs = []
  /-- an asserted pulse before its time: nothing (R208). -/
  waiting : p.readingAt = 0 → p.firedAt ≠ 0 → elapsed mod p.firedAt now < p.delay → q = p ∧ evs = []
  /-- an asserted pulse that is due: the inverse level is written, firedAt and delay are cleared (R208). -/
  released : p.readingAt = 0 → p.firedAt ≠ 0 → p.delay ≤ elapsed mod p.firedAt now →
    q = { p with firedAt := 0, delay := 0 } ∧
      evs = [.ioWrite (BitVec.ofNat 16 j) (if p.targetValue = 0 then 1 else 0)]
  /-- a capture: exactly one read (R206). -/
  read : p.readingAt ≠ 0 → evs = [.ioRead (BitVec.ofNat 16 j) r]
  /-- leading edge (R206). -/
  leading : p.readingAt ≠ 0 → p.firedAt = 0 → r.zeroExtend 8 = p.targetValue → q = { p with firedAt := now }
  /-- trailing edge (R206). -/
  trailing : p.readingAt ≠ 0 → p.firedAt ≠ 0 → p.delay = 0 → r = (if p.targetValue = 0 then 1 else 0) →
    q = { p with delay := now }
  /-- a capture reading that is no edge (R206). -/
  noEdge : p.readingAt ≠ 0 → (p.firedAt = 0 → r.zeroExtend 8 ≠ p.targetValue) →
    (p.firedAt ≠ 0 → p.delay = 0 → r ≠ (if p.targetValue = 0 then 1 else 0)) → q = p

/-- The whole pin scan at tick time `now` takes the records `ps` to `qs` and emits `evs`: each pin once, in pin order (R204). -/
def PinsScanned (mod : Nat) (now : Time) (ps qs : List Pin) (evs : List Event) : Prop :=
  qs.length = ps.length ∧ ∃ (per : List (List Event)) (rs : List Level), per.length = ps.length ∧ rs.length = ps.length ∧
    evs = per.flatten ∧ ∀ (j : Nat) (p q : Pin) (r : Level) (es : List Event),
      ps[j]? = some p → qs[j]? = some q → rs[j]? = some r → per[j]? = some es → PinScanned mod now j r p q es

/-- The reply an event shows, if it is a read (R98). -/
def Event.reply? : Event → Option Level
  | .ioRead _ r => some r
  | _ => none

/-- Where the input stream `before` gives a reply to every capturing pin of `ps`, the events `evs` show just those replies, in
order, and `after` is what remains (R98, R206). -/
def RepliesTaken (ps : List Pin) (before after : List Level) (evs : List Event) : Prop :=
  ∀ given rest, before = given ++ rest → given.length = ps.countP (fun p => p.readingAt != 0) →
    after = rest ∧ evs.filterMap Event.reply? = given

/-- The pin an event of the I/O driver is of (R97). -/
def Event.pin? : Event → Option Idx
  | .ioSetOutput p | .ioSetInput p | .ioWrite p _ | .ioWriteDuty p _ | .ioRead p _ => some p
  | .clock _ | .dispatch _ _ | .resp _ _ => none

/-- Commands executed one after another, the events of all of them collected in `out`. -/
def State.afterAll : List Instr → State → Host.Outcome State Fault Refusal
  | [], s => .next s
  | i :: is, s =>
    match exec i s with
    | .next t => State.afterAll is t
    | .fault r => .fault r
    | .refused r => .refused r

/-- `k` DONE commands in a row. -/
def State.afterDones (k : Nat) (s : State) : Host.Outcome State Fault Refusal := s.afterAll (List.replicate k .done)

/-- The instruction is a registration into slot `k` of `s`: by index, or as the first free slot (R131). -/
def registersSlot (s : State) (k : Nat) : Instr → Prop
  | .regp idx _ _ | .regpMs idx _ _ | .reg1 idx _ _ | .reg1Ms idx _ _ => idx.toNat = k
  | .regpAuto _ _ | .regpMsAuto _ _ | .reg1Auto _ _ | .reg1MsAuto _ _ => s.firstFree = some k
  | _ => False

/-- The instruction is a pulse form on pin `j` (R161). -/
def pulsesPin (j : Nat) : Instr → Prop
  | .pulse _ idx _ | .pulseMs _ idx _ | .pulseA _ idx _ | .pulseMsA _ idx _ => idx.toNat = j
  | _ => False

/-- The instruction clears pin `j` (R175, R176). -/
def clearsPin (j : Nat) : Instr → Prop
  | .clrp idx | .clrpF _ idx => idx.toNat = j
  | _ => False

/-- The instruction starts a capture on pin `j` (R170). -/
def capturesPin (j : Nat) : Instr → Prop
  | .pulsein _ idx => idx.toNat = j
  | _ => False

/-- The instruction requests something of pin `j` or clears it: a pulse form, PULSEIN, CLRP or CLRP.F (R36). -/
def writesPin (j : Nat) (i : Instr) : Prop := pulsesPin j i ∨ capturesPin j i ∨ clearsPin j i

/-- The step from `s` to `t` is one of the slot scan in which slot `k`, whose record was `x`, fires: TICK or DONE, the slot occupied
and due at the tick time, the handler then outstanding that of slot `k` (R196, R199). -/
def firesSlot (s t : State) (k : Nat) (x : Slot) (i : Instr) : Prop :=
  (i = .tick ∨ i = .done) ∧ x.occ = true ∧ x.period ≤ elapsed s.mod x.lastFired t.now ∧ t.phase = .handler ∧
    t.cur = BitVec.ofNat 16 k

/-- The state with every handler identifier blanked, in the table and in the events (R24). -/
def State.blankHids (s : State) : State :=
  { s with
    slots := s.slots.map fun x => { x with hid := 0 }
    out := s.out.map fun e =>
      match e with
      | .dispatch i _ => .dispatch i 0
      | e => e }

end Sys2Proof.Machine
end

