-- ==== Sys2Proof/Certificates/Slice0/Obligations.lean ====
section
/-! DEFINITION. The statements for the provers, from the numbered rules of spec/. -/

open Sys2Proof Sys2Proof.Machine

/-! ### Encoding and decoding -/

/-- Every well-formed instruction survives encoding (R80 to R87). The spec's own decisions D2, D3. -/
def Obligations.DecodeEncodeRoundTrip : Prop := ∀ i : Instr, i.WellFormed → decode (encode i) = .ok i

/-- A legal word decodes to a well-formed instruction, and is that instruction's only word (R83, R87). The spec's own decisions
D2, D3, D20. -/
def Obligations.DecodedWordIsItsEncoding : Prop :=
  ∀ (w : Command) (i : Instr), decode w = .ok i → i.WellFormed ∧ encode i = w

/-- The decoder is the opcode map: a word is a row's instruction iff `CW and mask = match`, no two rows share a word, and a word
of no row is illegal (R83). The spec's own decisions D2, D3. -/
def Obligations.DecoderIsTheOpcodeMap : Prop :=
  ∀ w : Command,
    (∀ r ∈ opcodeMap, (r.selects w = true ↔ ∃ i, decode w = .ok i ∧ i.mnemonic = r.mnemonic)) ∧
    (∀ r ∈ opcodeMap, ∀ r' ∈ opcodeMap, r.selects w = true → r'.selects w = true → r = r') ∧
    ((∀ r ∈ opcodeMap, r.selects w = false) → ∃ e, decode w = .error e)

/-- Words of the spec's own examples, one of each family, and three illegal ones (95_test_vectors.md, 96_more_test_vectors.md).
The spec's own decisions D2, D3. -/
def Obligations.ExampleWordsDecode : Prop :=
  decode 0x100000000000000000000000 = .ok .tick ∧
  decode 0x20000002000000FA000000B2 = .ok (.regp 2 250 0xB2) ∧
  decode 0x3800000100000003000000F6 = .ok (.reg1Ms 1 3 0xF6) ∧
  decode 0x40000002000003E800000000 = .ok (.chgp 2 1000) ∧
  decode 0x728000020000003200000000 = .ok (.pulseA 128 2 50) ∧
  decode 0x800100000000000000000000 = .ok (.pulsein 1 0) ∧
  decode 0xA10000010000000000000000 = .ok (.clrpF 0 1) ∧
  decode 0xB0000000FFFFFFF000000010 = .ok (.elapsed 0xFFFFFFF0 0x10) ∧
  decode 0xC000100A0000000000000000 = .ok (.rd 0x100A) ∧
  decode 0xD00000000000000000000000 = .ok .done ∧
  (∀ w ∈ [(0x000000000000000000000000 : Command), 0xFFFFFFFFFFFFFFFFFFFFFFFF, 0x700200010000006400000000],
    (decode w).toOption = none)

/-- A line of assembly in the operand order of R90 gives its instruction, and the pseudo-forms of R91 the one command each stands
for. The spec's own decision D28. -/
def Obligations.AssemblyNamesEveryInstruction : Prop :=
  (∀ i : Instr, i.WellFormed → assemble i.mnemonic (tokensOf i) = some i) ∧
  (∀ pin, assemble .CLRP [pin, .keep] = assemble .CLRP [pin]) ∧
  (∀ pin l, l ≠ .keep → assemble .CLRP [pin, l] = assemble .CLRP_F [pin, l]) ∧
  (∀ ts, assemble .REGP (.auto :: ts) = assemble .REGP_AUTO ts) ∧
  (∀ ts, assemble .REGP_MS (.auto :: ts) = assemble .REGP_MS_AUTO ts) ∧
  (∀ ts, assemble .REG1 (.auto :: ts) = assemble .REG1_AUTO ts) ∧
  (∀ ts, assemble .REG1_MS (.auto :: ts) = assemble .REG1_MS_AUTO ts)

/-- Lines of the spec's examples give the words the spec prints beside them (R90 to R92; examples of R133 to R230). The spec's own
decision D28. -/
def Obligations.ExampleLinesAssemble : Prop :=
  ∀ p ∈ [("TICK", (0x100000000000000000000000 : Command)), ("REGP 2, 250, 0xB2", 0x20000002000000FA000000B2),
    ("REG1.MS.AUTO 1, 0x77", 0x3C0000000000000100000077), ("CHGP 2, 1000 ; a comment", 0x40000002000003E800000000),
    ("PULSE 1, 100, HIGH", 0x700100010000006400000000), ("PULSE.A 2, 50, 128", 0x728000020000003200000000),
    ("CLRP.F 1, LOW", 0xA10000010000000000000000), ("ELAPSED 0xFFFFFFF0, 0x00000010", 0xB0000000FFFFFFF000000010),
    ("RD PIN[2].DELAY", 0xC000100A0000000000000000), ("RD SLOT[3].PERIOD", 0xC000011A0000000000000000),
    ("REGP AUTO, 100, 0xA1", 0x2400000000000064000000A1), ("CLRP 0, KEEP", 0xA00000000000000000000000)],
    ∃ i, assembleLine p.1 = .command i ∧ encode i = p.2

/-- The words on the output ports: the fields of the response, the dispatch and the driver event stand at the places R94, R95 and R97
give; the statuses have the numbers of R240; the driver's calls have the kinds of R97, with `val` 0 where the call has no value; and
each event goes to its own port alone, the clock sample to none. The spec's own decisions D4, D13, D24. -/
def Obligations.PortWordsHoldTheirParts : Prop :=
  (∀ st v, (respWord st v).extractLsb' 32 4 = st.code ∧ (respWord st v).extractLsb' 0 32 = v) ∧
  (∀ i h, (dispatchWord i h).extractLsb' 32 16 = i ∧ (dispatchWord i h).extractLsb' 0 32 = h) ∧
  (∀ k p v, (ioWord k p v).extractLsb' 24 3 = k ∧ (ioWord k p v).extractLsb' 8 16 = p ∧ (ioWord k p v).extractLsb' 0 8 = v) ∧
  (Status.ok.code = 0 ∧ Status.noSlot.code = 1 ∧ Status.eIndex.code = 2 ∧ Status.eIllegal.code = 3 ∧ Status.ePhase.code = 4) ∧
  (∀ p l d, (Event.ioSetOutput p).ioWord? = some (ioWord 0 p 0) ∧ (Event.ioSetInput p).ioWord? = some (ioWord 1 p 0) ∧
    (Event.ioWrite p l).ioWord? = some (ioWord 2 p (l.zeroExtend 8)) ∧ (Event.ioWriteDuty p d).ioWord? = some (ioWord 3 p d) ∧
    (Event.ioRead p l).ioWord? = some (ioWord 4 p 0)) ∧
  (∀ st v, (Event.resp st v).respWord? = some (respWord st v)) ∧
  (∀ k h, (Event.dispatch k h).dispatchWord? = some (dispatchWord k h)) ∧
  (∀ e : Event, (e.respWord?.isSome ↔ ∃ st v, e = .resp st v) ∧ (e.dispatchWord?.isSome ↔ ∃ k h, e = .dispatch k h) ∧
    (e.ioWord?.isSome ↔ e.pin?.isSome))

/-! ### The step -/

/-- A step takes the next command word and runs the instruction it decodes to, with no event emitted yet (R13, R87). The spec's
own decision D1. -/
def Obligations.StepRunsTheDecodedCommand : Prop :=
  ∀ (s : State) (w : Command) (rest : List Command) (i : Instr),
    s.commands = w :: rest → decode w = .ok i → step s = exec i { s with commands := rest, out := [] }

/-- A word that matches no row is answered with E_ILLEGAL and changes nothing else; a word that matches a row never is (R243). The
spec's own decision D20. -/
def Obligations.IllegalWordsAreAnswered : Prop :=
  ∀ (s : State) (w : Command) (rest : List Command), s.commands = w :: rest →
    ((∀ r ∈ opcodeMap, r.selects w = false) →
      step s = .next { s with commands := rest, out := [.resp .eIllegal 0] }) ∧
    ((∃ r ∈ opcodeMap, r.selects w = true) → ∀ t, step s = .next t → ∀ v, Event.resp .eIllegal v ∉ t.out)

/-- MODEL'S CHOICE (log 2): with no word on the command port the block waits, and nothing but the event list changes. -/
def Obligations.NoCommandChangesNothing : Prop :=
  ∀ s : State, s.commands = [] → ∃ t, step s = .next t ∧ OnlyEmits [] { s with out := [] } t

/-- A step that takes a command takes exactly one, and its events end with exactly one response, whose value is 0 unless the
status is OK (R13, R94). The spec's own decisions D1, D4. -/
def Obligations.EveryCommandEndsInOneResponse : Prop :=
  ∀ (s t : State), s.commands ≠ [] → step s = .next t →
    t.commands = s.commands.tail ∧
    ∃ evs st v, t.out = evs ++ [.resp st v] ∧ (∀ e ∈ evs, ∀ st' v', e ≠ .resp st' v') ∧ (st ≠ .ok → v = 0)

/-- A step dispatches at most once, immediately before the response OK 1, and a step that dispatches emits no I/O event (R95,
R99). The spec's own decision D13. -/
def Obligations.DispatchComesLastAndAlone : Prop :=
  ∀ (s t : State) (k : Idx) (h : Word), step s = .next t → Event.dispatch k h ∈ t.out →
    t.out = [.dispatch k h, .resp .ok 1] ∨ ∃ c, t.out = [.clock c, .dispatch k h, .resp .ok 1]

/-- A raised status ends the command with `Resp(status, 0)`, changes no state and emits no other event; and the block traps in no
state of the invariant (R241). -/
def Obligations.FailedCommandChangesNothing : Prop :=
  (∀ (i : Instr) (s t : State) (evs : List Event) (st : Status) (v : Word),
    exec i s = .next t → t.out = s.out ++ evs → Event.resp st v ∈ evs → st ≠ .ok → RefusedWith st i s) ∧
  (∀ (i : Instr) (s : State), s.Inv → ∃ t, exec i s = .next t)

/-- TICK in phase HANDLER and DONE in phase IDLE are refused with E_PHASE, and no other command depends on the phase so (R244; the
spec's decision D13). -/
def Obligations.PhaseRefusals : Prop :=
  ∀ s : State,
    (s.phase = .handler → RefusedWith .ePhase .tick s) ∧ (s.phase = .idle → RefusedWith .ePhase .done s) ∧
    (∀ i, (i = .tick → s.phase = .idle) → (i = .done → s.phase = .handler) → NeverAnswers .ePhase i s)

/-- The bounds check: a command that takes a slot or pin index is refused with E_INDEX, before any write or event, exactly when the
index, all 16 bits, is at or above the table's size; RD exactly when the map has no register there; no other command ever is (R245). -/
def Obligations.IndexOutOfRangeRefused : Prop :=
  ∀ (s : State) (idx : Idx) (a b : Word) (v : Val),
    (∀ i ∈ slotIndexed idx a b, if idx.toNat < s.slots.length then NeverAnswers .eIndex i s else RefusedWith .eIndex i s) ∧
    (∀ i ∈ pinIndexed v idx a, if idx.toNat < s.pins.length then NeverAnswers .eIndex i s else RefusedWith .eIndex i s) ∧
    (if (s.regRead idx).isSome then NeverAnswers .eIndex (.rd idx) s else RefusedWith .eIndex (.rd idx) s) ∧
    (∀ i ∈ unindexed a b, NeverAnswers .eIndex i s)

/-- With every slot occupied the `.AUTO` registrations and FREE answer NO_SLOT and install nothing; with a free slot they never do
(R242). -/
def Obligations.FullTableAnswersNoSlot : Prop :=
  ∀ (s : State) (a b : Word), ∀ i ∈ [Instr.regpAuto a b, .regpMsAuto a b, .reg1Auto a b, .reg1MsAuto a b, .free],
    ((∀ x ∈ s.slots, x.occ = true) → RefusedWith .noSlot i s) ∧
    ((∃ x ∈ s.slots, x.occ = false) → ∃ t k, exec i s = .next t ∧ t.out = s.out ++ [.resp .ok k])

/-! ### Time arithmetic -/

/-- `elapsed` is the remainder of the difference, in its hardware forms (R110, R112). -/
def Obligations.ElapsedIsTheModularDifference : Prop :=
  ∀ (mod : Nat) (f t : Time), 1 ≤ mod → mod ≤ 2 ^ 32 →
    ((elapsed mod f t).toNat : Int) = ((t.toNat : Int) - (f.toNat : Int)) % (mod : Int) ∧
    (elapsed mod f t).toNat < mod ∧
    (mod = 2 ^ 32 → elapsed mod f t = t - f) ∧
    (f.toNat < mod → t.toNat < mod →
      (elapsed mod f t).toNat = if f.toNat ≤ t.toNat then t.toNat - f.toNat else t.toNat + mod - f.toNat)

/-- If `d` clock units pass after the instant `f` was recorded, `elapsed` is `d mod MOD`, and `d` itself exactly when `d < MOD`
(R111). -/
def Obligations.ElapsedIsTheForwardDistance : Prop :=
  ∀ (mod d : Nat) (f : Time), 1 ≤ mod → mod ≤ 2 ^ 32 →
    (elapsed mod f (BitVec.ofNat 32 ((f.toNat + d) % mod))).toNat = d % mod ∧
    ((elapsed mod f (BitVec.ofNat 32 ((f.toNat + d) % mod))).toNat = d ↔ d < mod)

/-- The corner cases (a) to (e) of the due comparator (R114). -/
def Obligations.DueCornerCases : Prop :=
  ∀ (mod : Nat) (last now period : Time), 2 ≤ mod → mod ≤ 2 ^ 32 →
    due mod last now 0 = true ∧
    (due mod now now period = true ↔ period = 0) ∧
    (mod ≤ period.toNat → due mod last now period = false) ∧
    (period.toNat + 1 = mod → last.toNat < mod → now.toNat < mod →
      (due mod last now period = true ↔ (now.toNat : Int) = ((last.toNat : Int) - 1) % (mod : Int))) ∧
    (30 ≤ mod → (elapsed mod (BitVec.ofNat 32 (mod - 10)) 20).toNat = 30 % mod)

/-- The millisecond scaling keeps the low 32 bits of the product; with one unit per millisecond both variants coincide (R115). The
spec's own decision D10. -/
def Obligations.MillisecondScaling : Prop :=
  ∀ (tpm : Nat) (a : Word), scale tpm false a = a ∧ (scale tpm true a).toNat = a.toNat * tpm % 2 ^ 32 ∧
    scale 1 true a = a

/-- ELAPSED answers the modular difference of its operands in either phase and changes nothing (R118). The spec's own decision D6.
-/
def Obligations.ElapsedCommandResult : Prop :=
  ∀ (s : State) (a b : Word), 1 ≤ s.mod → s.mod ≤ 2 ^ 32 →
    ∃ t v, exec (.elapsed a b) s = .next t ∧ OnlyEmits [.resp .ok v] s t ∧
      (v.toNat : Int) = ((b.toNat : Int) - (a.toNat : Int)) % (s.mod : Int)

/-! ### Slot commands -/

/-- `firstFree()` is the smallest index of a free slot, or none when every slot is occupied (R130). The spec's own decision D21.
-/
def Obligations.FirstFreeIsTheLowestFreeSlot : Prop :=
  ∀ s : State,
    (∀ i, s.firstFree = some i ↔
      (∃ x, s.slots[i]? = some x ∧ x.occ = false) ∧ ∀ k, k < i → ∀ y, s.slots[k]? = some y → y.occ = true) ∧
    (s.firstFree = none ↔ ∀ x ∈ s.slots, x.occ = true)

/-- The four registrations with an explicit slot below N write the five fields of that slot, occupied or free, and answer its
index (R133, R135, R137, R139). The spec's own decisions D9, D10. -/
def Obligations.ExplicitRegistrationResult : Prop :=
  ∀ (s : State) (idx : Idx) (a b : Word), idx.toNat < s.slots.length →
    (∃ t, exec (.regp idx a b) s = .next t ∧
      WritesSlot idx.toNat ⟨true, b, a, s.now, true⟩ [.resp .ok (idx.zeroExtend 32)] s t) ∧
    (∃ t, exec (.regpMs idx a b) s = .next t ∧
      WritesSlot idx.toNat ⟨true, b, BitVec.ofNat 32 (a.toNat * s.tpm), s.now, true⟩ [.resp .ok (idx.zeroExtend 32)] s t) ∧
    (∃ t, exec (.reg1 idx a b) s = .next t ∧
      WritesSlot idx.toNat ⟨true, b, a, s.now, false⟩ [.resp .ok (idx.zeroExtend 32)] s t) ∧
    (∃ t, exec (.reg1Ms idx a b) s = .next t ∧
      WritesSlot idx.toNat ⟨true, b, BitVec.ofNat 32 (a.toNat * s.tpm), s.now, false⟩ [.resp .ok (idx.zeroExtend 32)] s t)

/-- The four `.AUTO` registrations write the lowest free slot and answer its index (R134, R136, R138, R140). The spec's own
decisions D9, D10, D21. -/
def Obligations.AutoRegistrationResult : Prop :=
  ∀ (s : State) (a b : Word) (i : Nat) (x : Slot), s.slots[i]? = some x → x.occ = false →
    (∀ k, k < i → ∀ y, s.slots[k]? = some y → y.occ = true) →
    (∃ t, exec (.regpAuto a b) s = .next t ∧ WritesSlot i ⟨true, b, a, s.now, true⟩ [.resp .ok (BitVec.ofNat 32 i)] s t) ∧
    (∃ t, exec (.regpMsAuto a b) s = .next t ∧
      WritesSlot i ⟨true, b, BitVec.ofNat 32 (a.toNat * s.tpm), s.now, true⟩ [.resp .ok (BitVec.ofNat 32 i)] s t) ∧
    (∃ t, exec (.reg1Auto a b) s = .next t ∧ WritesSlot i ⟨true, b, a, s.now, false⟩ [.resp .ok (BitVec.ofNat 32 i)] s t) ∧
    (∃ t, exec (.reg1MsAuto a b) s = .next t ∧
      WritesSlot i ⟨true, b, BitVec.ofNat 32 (a.toNat * s.tpm), s.now, false⟩ [.resp .ok (BitVec.ofNat 32 i)] s t)

/-- CHGP writes the period and the tick time and nothing else, whether or not the slot is occupied; an index outside the table is
E_INDEX (R142). The spec's own decision D22. -/
def Obligations.ChangePeriodResult : Prop :=
  ∀ (s : State) (idx : Idx) (a : Word),
    (∀ x, s.slots[idx.toNat]? = some x → ∃ t, exec (.chgp idx a) s = .next t ∧
      WritesSlot idx.toNat { x with period := a, lastFired := s.now } [.resp .ok 0] s t) ∧
    (s.slots.length ≤ idx.toNat → ∃ t, exec (.chgp idx a) s = .next t ∧ OnlyEmits [.resp .eIndex 0] s t)

/-- CLRS writes `occ` and nothing else; an index outside the table is E_INDEX (R144). The spec's own decision D18. -/
def Obligations.ClearSlotResult : Prop :=
  ∀ (s : State) (idx : Idx),
    (∀ x, s.slots[idx.toNat]? = some x → ∃ t, exec (.clrs idx) s = .next t ∧
      WritesSlot idx.toNat { x with occ := false } [.resp .ok 0] s t) ∧
    (s.slots.length ≤ idx.toNat → ∃ t, exec (.clrs idx) s = .next t ∧ OnlyEmits [.resp .eIndex 0] s t)

/-- FREE answers the lowest free index, or NO_SLOT on a full table, and changes nothing; the answer is the index an `.AUTO`
registration issued next uses (R146). The spec's own decision D21. -/
def Obligations.FreeLookupResult : Prop :=
  ∀ s : State,
    (∀ i x, s.slots[i]? = some x → x.occ = false → (∀ k, k < i → ∀ y, s.slots[k]? = some y → y.occ = true) →
      ∃ t, exec .free s = .next t ∧ OnlyEmits [.resp .ok (BitVec.ofNat 32 i)] s t ∧
        ∀ a b, ∃ u y, exec (.regpAuto a b) t = .next u ∧ u.slots[i]? = some y ∧ y.occ = true ∧ y.hid = b) ∧
    ((∀ x ∈ s.slots, x.occ = true) → ∃ t, exec .free s = .next t ∧ OnlyEmits [.resp .noSlot 0] s t)

/-- Which commands write which field of a slot record: the table of R29, with the stability of a slot index of R28 (c). `lastFired`
is written, with the tick time, by a registration into the slot, by CHGP of it, and by the slot scan when it fires. -/
def Obligations.SlotFieldsAreWrittenOnlyAsListed : Prop :=
  ∀ (i : Instr) (s t : State) (k : Nat) (x y : Slot), exec i s = .next t → s.slots[k]? = some x → t.slots[k]? = some y →
    (y.occ ≠ x.occ → registersSlot s k i ∧ y.occ = true ∨ (∃ idx, i = .clrs idx ∧ idx.toNat = k ∧ y.occ = false) ∨
      i = .done ∧ s.phase = .handler ∧ s.cur.toNat = k ∧ x.rep = false ∧ y.occ = false) ∧
    (y.hid ≠ x.hid ∨ y.rep ≠ x.rep → registersSlot s k i) ∧
    (y.period ≠ x.period → registersSlot s k i ∨ ∃ idx a, i = .chgp idx a ∧ idx.toNat = k) ∧
    (y.lastFired ≠ x.lastFired → y.lastFired = t.now ∧
      (registersSlot s k i ∨ (∃ idx a, i = .chgp idx a ∧ idx.toNat = k) ∨ firesSlot s t k x i))

/-- Exhaustion: an `.AUTO` registration raises the occupied count by one while a slot is free, and leaves it at N with NO_SLOT
when none is (R148 (c)). -/
def Obligations.AutoRegistrationCounts : Prop :=
  ∀ (s : State) (a b : Word), ∀ i ∈ [Instr.regpAuto a b, .regpMsAuto a b, .reg1Auto a b, .reg1MsAuto a b],
    (s.occupied < s.slots.length → ∃ t, exec i s = .next t ∧ t.occupied = s.occupied + 1) ∧
    (s.occupied = s.slots.length → ∃ t, exec i s = .next t ∧ t.occupied = s.slots.length ∧ t.out = s.out ++ [.resp .noSlot 0])

/-! ### Pin commands -/

/-- The four PULSE forms on a pin below M: direction event, then the level or duty event, three fields written, `readingAt` kept
(R161, R163 to R166). The spec's own decisions D10, D16, D17. -/
def Obligations.PulseFormsResult : Prop :=
  ∀ (s : State) (idx : Idx) (a : Word) (l : Level) (d : Val) (p : Pin), s.pins[idx.toNat]? = some p →
    (∃ t, exec (.pulse (l.zeroExtend 8) idx a) s = .next t ∧
      WritesPin idx.toNat ⟨s.now, p.readingAt, a, l.zeroExtend 8⟩ [.ioSetOutput idx, .ioWrite idx l, .resp .ok 0] s t) ∧
    (∃ t, exec (.pulseMs (l.zeroExtend 8) idx a) s = .next t ∧
      WritesPin idx.toNat ⟨s.now, p.readingAt, BitVec.ofNat 32 (a.toNat * s.tpm), l.zeroExtend 8⟩
        [.ioSetOutput idx, .ioWrite idx l, .resp .ok 0] s t) ∧
    (∃ t, exec (.pulseA d idx a) s = .next t ∧
      WritesPin idx.toNat ⟨s.now, p.readingAt, a, d⟩ [.ioSetOutput idx, .ioWriteDuty idx d, .resp .ok 0] s t) ∧
    (∃ t, exec (.pulseMsA d idx a) s = .next t ∧
      WritesPin idx.toNat ⟨s.now, p.readingAt, BitVec.ofNat 32 (a.toNat * s.tpm), d⟩
        [.ioSetOutput idx, .ioWriteDuty idx d, .resp .ok 0] s t)

/-- PULSEIN makes the record a clean capture and switches the pin to input without reading it; an index outside the table is
E_INDEX (R170). The spec's own decision D17. -/
def Obligations.PulseInResult : Prop :=
  ∀ (s : State) (idx : Idx) (l : Level),
    (idx.toNat < s.pins.length → ∃ t, exec (.pulsein (l.zeroExtend 8) idx) s = .next t ∧
      WritesPin idx.toNat ⟨0, s.now, 0, l.zeroExtend 8⟩ [.ioSetInput idx, .resp .ok 0] s t) ∧
    (s.pins.length ≤ idx.toNat → ∃ t, exec (.pulsein (l.zeroExtend 8) idx) s = .next t ∧ OnlyEmits [.resp .eIndex 0] s t)

/-- ISBUSY answers 1 iff firedAt or readingAt is not 0, and changes nothing; an index outside the table is E_INDEX (R173). -/
def Obligations.IsBusyResult : Prop :=
  ∀ (s : State) (idx : Idx),
    (∀ p, s.pins[idx.toNat]? = some p → ∃ t v, exec (.isbusy idx) s = .next t ∧ OnlyEmits [.resp .ok v] s t ∧
      (p.firedAt ≠ 0 ∨ p.readingAt ≠ 0 → v = 1) ∧ (p.firedAt = 0 → p.readingAt = 0 → v = 0)) ∧
    (s.pins.length ≤ idx.toNat → ∃ t, exec (.isbusy idx) s = .next t ∧ OnlyEmits [.resp .eIndex 0] s t)

/-- CLRP clears the three time fields with no I/O event; CLRP.F clears them and emits one IoWrite of the level; targetValue stays;
an index outside the table is E_INDEX (R175, R176). The spec's own decision D18. -/
def Obligations.ClearPinResult : Prop :=
  ∀ (s : State) (idx : Idx) (l : Level),
    (∀ p, s.pins[idx.toNat]? = some p →
      (∃ t, exec (.clrp idx) s = .next t ∧ WritesPin idx.toNat ⟨0, 0, 0, p.targetValue⟩ [.resp .ok 0] s t) ∧
      (∃ t, exec (.clrpF (l.zeroExtend 8) idx) s = .next t ∧
        WritesPin idx.toNat ⟨0, 0, 0, p.targetValue⟩ [.ioWrite idx l, .resp .ok 0] s t)) ∧
    (s.pins.length ≤ idx.toNat →
      (∃ t, exec (.clrp idx) s = .next t ∧ OnlyEmits [.resp .eIndex 0] s t) ∧
      (∃ t, exec (.clrpF (l.zeroExtend 8) idx) s = .next t ∧ OnlyEmits [.resp .eIndex 0] s t))

/-- Which commands write which field of a pin record: the table of R36, whatever the pin scan of a tick does. -/
def Obligations.PinFieldsAreWrittenOnlyAsListed : Prop :=
  ∀ (i : Instr) (s t : State) (j : Nat) (p q : Pin), exec i s = .next t → s.pins[j]? = some p → t.pins[j]? = some q →
    (q.readingAt ≠ p.readingAt → capturesPin j i ∨ clearsPin j i) ∧
    (q.targetValue ≠ p.targetValue → pulsesPin j i ∨ capturesPin j i) ∧
    (q ≠ p → pulsesPin j i ∨ capturesPin j i ∨ clearsPin j i ∨
      (i = .tick ∨ i = .done) ∧ (p.readingAt ≠ 0 ∨ p.firedAt ≠ 0))

/-- The zero-timestamp hazard: a pulse or capture requested at tick time 0 leaves the pin not busy, and from then on, until a command
pulses, captures or clears that pin, nothing in any TICK, DONE or handler's command changes its record, reads it or writes it: the
pulse is never released, the capture never read (R290, R162 (a), R170 (a)). The spec's own decisions D8, D12. -/
def Obligations.RequestsAtTimeZeroAreLost : Prop :=
  ∀ (s : State) (idx : Idx) (a : Word) (l : Level) (d : Val) (p : Pin), s.now = 0 → s.pins[idx.toNat]? = some p →
    p.readingAt = 0 →
    ∀ i ∈ [Instr.pulse (l.zeroExtend 8) idx a, .pulseMs (l.zeroExtend 8) idx a, .pulseA d idx a, .pulseMsA d idx a,
        .pulsein (l.zeroExtend 8) idx],
      ∃ t, exec i s = .next t ∧
        (∃ u, exec (.isbusy idx) t = .next u ∧ OnlyEmits [.resp .ok 0] t u) ∧
        (s.phase = .idle → ∃ u, exec .tick t = .next u ∧ u.pins[idx.toNat]? = t.pins[idx.toNat]?) ∧
        (∀ (later : List Instr) (w : State), (∀ c ∈ later, ¬writesPin idx.toNat c) → t.afterAll later = .next w →
          w.pins[idx.toNat]? = t.pins[idx.toNat]? ∧
          (s.cfg.Ok → ∃ evs, w.out = t.out ++ evs ∧ ∀ e ∈ evs, e.pin? ≠ some idx))

/-- The life of an output pulse: while fewer than `d` units have passed the next tick leaves the pin busy and writes nothing to
it; once `d` have passed it writes the opposite level and the pin is not busy (R163, R208). The spec's own decision D16. -/
def Obligations.PulseIsReleasedWhenDue : Prop :=
  ∀ (s : State) (idx : Idx) (d : Word) (l : Level) (p : Pin) (c : Time) (rest : List Time),
    s.cfg.Ok → s.phase = .idle → s.now ≠ 0 → s.pins[idx.toNat]? = some p → p.readingAt = 0 → s.clockIn = c :: rest →
    c.toNat < s.mod → (∀ x ∈ s.slots, x.occ = true → elapsed s.mod x.lastFired c < x.period) →
    ∃ t u evs, exec (.pulse (l.zeroExtend 8) idx d) s = .next t ∧ exec .tick t = .next u ∧ u.out = t.out ++ evs ∧
      (elapsed s.mod s.now c < d → (∀ l', Event.ioWrite idx l' ∉ evs) ∧
        ∃ v, exec (.isbusy idx) u = .next v ∧ v.out = u.out ++ [.resp .ok 1]) ∧
      (d ≤ elapsed s.mod s.now c → Event.ioWrite idx (~~~l) ∈ evs ∧
        ∃ v, exec (.isbusy idx) u = .next v ∧ v.out = u.out ++ [.resp .ok 0])

/-! ### The tick -/

/-- An accepted TICK takes one clock sample, whatever it is, holds it in NOW and leaves its distance from the previous tick time
in QUANTUM; the sample is the step's first event and the only one (R190, R191, R192). The spec's own decisions D8, D23, D26. -/
def Obligations.TickTakesOneSample : Prop :=
  ∀ s : State, s.phase = .idle → 1 ≤ s.mod → s.mod ≤ 2 ^ 32 →
    ∃ t evs, exec .tick s = .next t ∧ t.now.toNat < s.mod ∧ t.quantum = elapsed s.mod s.now t.now ∧
      t.clockIn = s.clockIn.tail ∧ t.commands = s.commands ∧ SameCfg s t ∧
      t.out = s.out ++ .clock t.now :: evs ∧ (∀ c, Event.clock c ∉ evs) ∧
      (∀ c ∈ s.clockIn.head?, c.toNat < s.mod → t.now = c)

/-- NOW and QUANTUM are written, and the clock is sampled, by TICK alone; PHASE and CUR only by TICK and DONE (R38, R39, R192,
R202). The spec's own decision D8. -/
def Obligations.OnlyTheTickMovesTime : Prop :=
  ∀ (i : Instr) (s t : State), exec i s = .next t →
    (i ≠ .tick → t.now = s.now ∧ t.quantum = s.quantum ∧ t.clockIn = s.clockIn) ∧
    (i ≠ .tick → i ≠ .done → t.phase = s.phase ∧ t.cur = s.cur ∧ t.readIn = s.readIn ∧ t.draws = s.draws)

/-- TICK dispatches the lowest slot that is occupied and due: its lastFired is the tick time, PHASE and CUR name it, no later slot
and no pin is touched (R195 to R199, R251). The spec's own decision D13. -/
def Obligations.TickDispatchesTheLowestDueSlot : Prop :=
  ∀ (s : State) (c : Time) (rest : List Time) (i : Nat) (x : Slot),
    s.cfg.Ok → s.phase = .idle → s.clockIn = c :: rest → c.toNat < s.mod → s.slots[i]? = some x → x.occ = true →
    x.period ≤ elapsed s.mod x.lastFired c →
    (∀ k y, k < i → s.slots[k]? = some y → y.occ = true → elapsed s.mod y.lastFired c < y.period) →
    ∃ t, exec .tick s = .next t ∧ t.slots[i]? = some { x with lastFired := c } ∧ SameSlotsBut i s t ∧ t.pins = s.pins ∧
      t.now = c ∧ t.quantum = elapsed s.mod s.now c ∧ t.phase = .handler ∧ t.cur.toNat = i ∧ SameCfg s t ∧
      t.commands = s.commands ∧ t.clockIn = rest ∧ t.readIn = s.readIn ∧ t.draws = s.draws ∧
      t.out = s.out ++ [.clock c, .dispatch t.cur x.hid, .resp .ok 1]

/-- TICK with no slot due writes no slot, scans every pin once in pin order against the new tick time, and ends the tick with
`Resp(OK, 0)`; CUR keeps its value (R195, R204 to R208). The spec's own decisions D13, D15, D16. -/
def Obligations.TickWithNothingDueScansThePins : Prop :=
  ∀ (s : State) (c : Time) (rest : List Time),
    s.cfg.Ok → s.phase = .idle → s.clockIn = c :: rest → c.toNat < s.mod →
    (∀ x ∈ s.slots, x.occ = true → elapsed s.mod x.lastFired c < x.period) →
    ∃ t evs, exec .tick s = .next t ∧ t.slots = s.slots ∧ PinsScanned s.mod c s.pins t.pins evs ∧
      RepliesTaken s.pins s.readIn t.readIn evs ∧ t.now = c ∧ t.quantum = elapsed s.mod s.now c ∧ t.phase = .idle ∧
      t.cur = s.cur ∧ SameCfg s t ∧ t.commands = s.commands ∧ t.clockIn = rest ∧
      t.out = s.out ++ .clock c :: evs ++ [.resp .ok 0]

/-- DONE frees the slot it ends if that slot, as it stands now, is a one-shot, and leaves it otherwise (R201). The spec's own
decision D14. -/
def Obligations.DoneReleasesAOneShot : Prop :=
  ∀ (s : State) (x : Slot), s.phase = .handler → s.slots[s.cur.toNat]? = some x →
    ∃ t, exec .done s = .next t ∧ t.slots[s.cur.toNat]? = some (if x.rep then x else { x with occ := false })

/-- DONE resumes the scan at CUR + 1 and dispatches the lowest due slot above CUR, read from the live table (R200, R203, R252).
The spec's own decisions D13, D14. -/
def Obligations.DoneDispatchesTheNextDueSlot : Prop :=
  ∀ (s : State) (x y : Slot) (i : Nat), s.cfg.Ok → s.phase = .handler → s.slots[s.cur.toNat]? = some x →
    s.cur.toNat < i → s.slots[i]? = some y → y.occ = true → y.period ≤ elapsed s.mod y.lastFired s.now →
    (∀ k z, s.cur.toNat < k → k < i → s.slots[k]? = some z → z.occ = true → elapsed s.mod z.lastFired s.now < z.period) →
    ∃ t, exec .done s = .next t ∧ t.slots[i]? = some { y with lastFired := s.now } ∧
      t.slots[s.cur.toNat]? = some (if x.rep then x else { x with occ := false }) ∧
      (∀ k, k ≠ i → k ≠ s.cur.toNat → t.slots[k]? = s.slots[k]?) ∧ t.slots.length = s.slots.length ∧ t.pins = s.pins ∧
      t.now = s.now ∧ t.quantum = s.quantum ∧ t.phase = .handler ∧ t.cur.toNat = i ∧ SameCfg s t ∧ SameInputs s t ∧
      t.out = s.out ++ [.dispatch t.cur y.hid, .resp .ok 1]

/-- DONE with no slot above CUR due scans every pin once in pin order and ends the tick (R200, R204, R207). The spec's own
decisions D13, D14. -/
def Obligations.DoneWithNothingDueScansThePins : Prop :=
  ∀ (s : State) (x : Slot), s.phase = .handler → s.slots[s.cur.toNat]? = some x →
    (∀ k z, s.cur.toNat < k → s.slots[k]? = some z → z.occ = true → elapsed s.mod z.lastFired s.now < z.period) →
    ∃ t evs, exec .done s = .next t ∧ t.slots[s.cur.toNat]? = some (if x.rep then x else { x with occ := false }) ∧
      SameSlotsBut s.cur.toNat s t ∧ PinsScanned s.mod s.now s.pins t.pins evs ∧ RepliesTaken s.pins s.readIn t.readIn evs ∧
      t.now = s.now ∧ t.quantum = s.quantum ∧ t.phase = .idle ∧ t.cur = s.cur ∧ SameCfg s t ∧ t.commands = s.commands ∧
      t.clockIn = s.clockIn ∧ t.out = s.out ++ evs ++ [.resp .ok 0]

/-- A slot is dispatched only if it is occupied and due at the tick time, with the identifier it holds, and then holds the tick time,
PHASE and CUR naming it (R196, R197, R199). The spec's own decision D13. -/
def Obligations.OnlyADueSlotIsDispatched : Prop :=
  ∀ (i : Instr) (s t : State) (evs : List Event) (k : Idx) (h : Word), s.cfg.Ok → exec i s = .next t → t.out = s.out ++ evs →
    Event.dispatch k h ∈ evs →
    ∃ x, s.slots[k.toNat]? = some x ∧ x.occ = true ∧ x.hid = h ∧ x.period ≤ elapsed s.mod x.lastFired t.now ∧
      t.slots[k.toNat]? = some { x with lastFired := t.now } ∧ t.phase = .handler ∧ t.cur = k

/-- Within one tick the scan index only grows: a DONE that dispatches names a slot above the one it ends (R198, R41). The spec's
own decision D13. -/
def Obligations.TheScanMovesUpward : Prop :=
  ∀ s t : State, s.cfg.Ok → s.phase = .handler → exec .done s = .next t → t.phase = .handler → s.cur.toNat < t.cur.toNat

/-- A suspended tick is over after at most N - CUR DONE commands (R198, R211). The spec's own decision D13. -/
def Obligations.ATickEndsAfterBoundedlyManyDones : Prop :=
  ∀ s : State, s.Inv → s.phase = .handler →
    ∃ k t, 1 ≤ k ∧ k ≤ s.slots.length - s.cur.toNat ∧ s.afterDones k = .next t ∧ t.phase = .idle

/-! ### Register read -/

/-- RD answers the register of the map of R63, zero-extended, in either phase, and changes nothing (R62, R63, R230). The spec's
own decision D19. -/
def Obligations.ReadMappedRegister : Prop :=
  ∀ s : State, s.cfg.Ok →
    let Reads (a : Nat) (v : Word) := ∃ t, exec (.rd (BitVec.ofNat 16 a)) s = .next t ∧ OnlyEmits [.resp .ok v] s t
    Reads 0x0000 s.now ∧ Reads 0x0001 s.quantum ∧ Reads 0x0002 (if s.phase = .handler then 1 else 0) ∧
    Reads 0x0003 (s.cur.zeroExtend 32) ∧
    (∀ i x, s.slots[i]? = some x →
      Reads (0x0100 + 8 * i + 0) (if x.occ then 1 else 0) ∧ Reads (0x0100 + 8 * i + 1) x.hid ∧
      Reads (0x0100 + 8 * i + 2) x.period ∧ Reads (0x0100 + 8 * i + 3) x.lastFired ∧
      Reads (0x0100 + 8 * i + 4) (if x.rep then 1 else 0)) ∧
    (∀ j p, s.pins[j]? = some p →
      Reads (0x1000 + 4 * j + 0) p.firedAt ∧ Reads (0x1000 + 4 * j + 1) p.readingAt ∧
      Reads (0x1000 + 4 * j + 2) p.delay ∧ Reads (0x1000 + 4 * j + 3) (p.targetValue.zeroExtend 32))

/-- RD of an address that the map of R63 does not name answers E_INDEX and changes nothing (R63, R64, R231 (a)). The spec's own
decision D19. -/
def Obligations.ReadUnmappedAddressFails : Prop :=
  ∀ (s : State) (a : Idx), s.cfg.Ok →
    (0x0004 ≤ a.toNat ∧ a.toNat ≤ 0x00FF) ∨ (0x0100 ≤ a.toNat ∧ a.toNat ≤ 0x0FFF ∧ 5 ≤ a.toNat % 8) ∨
      (0x0100 + 8 * s.slots.length ≤ a.toNat ∧ a.toNat ≤ 0x0FFF) ∨ 0x1000 + 4 * s.pins.length ≤ a.toNat →
    ∃ t, exec (.rd a) s = .next t ∧ OnlyEmits [.resp .eIndex 0] s t

/-- The map gives every register of the tables its own address: the regions never overlap (R63). The spec's own decision D19. -/
def Obligations.RegisterMapIsOneToOne : Prop :=
  ∀ s : State, s.cfg.Ok → ∀ r v, s.regValue r = some v →
    r.address < 2 ^ 16 ∧ regAt s.cfg.n s.cfg.m r.address = some r ∧
    ∀ r' v', s.regValue r' = some v' → r'.address = r.address → r' = r

/-! ### Reset and invariants -/

/-- After reset, under every configuration, every slot is free with all fields 0, every pin is idle with all fields 0, NOW,
QUANTUM and CUR are 0 and PHASE is IDLE (R50). The spec's own decision D12. -/
def Obligations.ResetValues : Prop :=
  ∀ c : Config.Cfg,
    (State.initial c).cfg = c ∧
    (∀ x ∈ (State.initial c).slots, x.occ = false ∧ x.hid = 0 ∧ x.period = 0 ∧ x.lastFired = 0 ∧ x.rep = false) ∧
    (∀ p ∈ (State.initial c).pins, p.firedAt = 0 ∧ p.readingAt = 0 ∧ p.delay = 0 ∧ p.targetValue = 0) ∧
    (State.initial c).now = 0 ∧ (State.initial c).quantum = 0 ∧ (State.initial c).phase = .idle ∧ (State.initial c).cur = 0 ∧
    (State.initial c).out = []

/-- The reset event puts the block of any state to the reset values and emits nothing; a DONE sent after it is refused with
E_PHASE and every other command is then legal (R280, R281). The spec's own decision D12. -/
def Obligations.ResetEventAbandonsTheTick : Prop :=
  ∀ s : State,
    s.resetEvent.slots = (State.initial s.cfg).slots ∧ s.resetEvent.pins = (State.initial s.cfg).pins ∧
    SameScalars (State.initial s.cfg) s.resetEvent ∧ s.resetEvent.cfg = s.cfg ∧ s.resetEvent.out = [] ∧
    (∃ t, exec .done s.resetEvent = .next t ∧ OnlyEmits [.resp .ePhase 0] s.resetEvent t) ∧
    (∀ i, i ≠ .done → ∃ t, exec i s.resetEvent = .next t ∧ ∀ v, Event.resp .ePhase v ∉ t.out)

/-- The invariant holds right after reset, under every configuration of R9 and in `State.reset`. The spec's own decision D12. -/
def Obligations.InvariantHoldsAtReset : Prop :=
  (∀ c : Config.Cfg, c.Ok → (State.initial c).Inv ∧ (State.initial c).Stamped) ∧ State.reset.Inv ∧ State.reset.Stamped

/-- Every step keeps the invariant: times stay in `[0, MOD)`, CUR names a slot while a handler is outstanding (R26, R31, R32, R38,
R39, R41). The spec's own decisions D8, D13. -/
def Obligations.StepKeepsTheInvariant : Prop := ∀ s t : State, s.Inv → step s = .next t → t.Inv

/-- Every step keeps the stamp: while a handler is outstanding its slot's lastFired is the tick time (R197, R142 (c), R230). The
spec's own decision D13. -/
def Obligations.StepKeepsTheHandlerStamp : Prop := ∀ s t : State, s.Inv → s.Stamped → step s = .next t → t.Stamped

/-- The configuration and the sizes of the tables never change: nothing is created or destroyed at run time (R20, R45). -/
def Obligations.ConfigurationNeverChanges : Prop := ∀ s t : State, step s = .next t → t.cfg = s.cfg

/-- From a state of the invariant no run ever stops: the block never traps (R241). -/
def Obligations.NoRunEverStops : Prop := ∀ (s : State), s.Inv → ∀ k, s.SafeRun k

/-- MODEL'S CHOICE (log 7): the one fault is DONE in phase HANDLER with CUR outside the table, a state R41 excludes; every other
command, and DONE otherwise, answers a next state. -/
def Obligations.TheOnlyFault : Prop :=
  ∀ (i : Instr) (s : State),
    (exec i s = .fault .curOutsideTable ↔ i = .done ∧ s.phase = .handler ∧ s.slots.length ≤ s.cur.toNat) ∧
    (¬(i = .done ∧ s.phase = .handler ∧ s.slots.length ≤ s.cur.toNat) → ∃ t, exec i s = .next t)

/-- The block never interprets a handler identifier: two states that differ in identifiers alone go on to differ in identifiers
alone, under every command but RD, which shows them (R24). The spec's own decision D5. -/
def Obligations.HandlerIdentifiersAreOpaque : Prop :=
  ∀ (i : Instr) (s s' : State), (∀ a, i ≠ .rd a) → s.blankHids = s'.blankHids →
    ∀ t, exec i s = .next t → ∃ t', exec i s' = .next t' ∧ t.blankHids = t'.blankHids

/-- No rule of the block depends on QUANTUM: another value there changes no command's effect but RD's answer (R39, R191). -/
def Obligations.QuantumInfluencesNothing : Prop :=
  ∀ (i : Instr) (s t : State) (q : Time), (∀ a, i ≠ .rd a) → exec i s = .next t →
    ∃ t', exec i { s with quantum := q } = .next t' ∧ { t' with quantum := 0 } = { t with quantum := 0 }
end

