-- ==== Sys2Proof/Laws/Decode.lean ====
section
/-! SUPPORT. What the row check of the decoder admits. -/

namespace Sys2Proof

/-- The row check answers `j` exactly when `j` is the row's instruction, the flags are the row's and every unused field is zero. -/
theorem Fields.check_eq_ok (f : Fields) (flagsOk : Bool) (vk : ValKind) (ui ua ub : Bool) (i j : Instr) :
    f.check flagsOk vk ui ua ub i = .ok j ↔
      flagsOk = true ∧ vk.admits f.val = true ∧ (ui = false → f.idx = 0) ∧ (ua = false → f.a = 0) ∧ (ub = false → f.b = 0) ∧
        i = j := by
  have hz : ∀ {w : Nat} (x : BitVec w), x.toNat = 0 ↔ x = 0 := fun x => by
    rw [← BitVec.toNat_inj]; simp
  unfold Fields.check
  rw [← hz f.idx, ← hz f.a, ← hz f.b]
  split_ifs <;> simp_all

end Sys2Proof
end

