-- ==== Sys2Proof/Laws/State.lean ====
section
/-! SUPPORT. One lemma per field per update of the state, true by definition, so that no proof unfolds a record update. -/

namespace Sys2Proof.Machine

variable (s : State)

/-! ### emit -/

@[simp] theorem State.emit_slots (e : Event) : (s.emit e).slots = s.slots := rfl
@[simp] theorem State.emit_pins (e : Event) : (s.emit e).pins = s.pins := rfl
@[simp] theorem State.emit_now (e : Event) : (s.emit e).now = s.now := rfl
@[simp] theorem State.emit_quantum (e : Event) : (s.emit e).quantum = s.quantum := rfl
@[simp] theorem State.emit_phase (e : Event) : (s.emit e).phase = s.phase := rfl
@[simp] theorem State.emit_cur (e : Event) : (s.emit e).cur = s.cur := rfl
@[simp] theorem State.emit_mod (e : Event) : (s.emit e).mod = s.mod := rfl
@[simp] theorem State.emit_tpm (e : Event) : (s.emit e).tpm = s.tpm := rfl
@[simp] theorem State.emit_commands (e : Event) : (s.emit e).commands = s.commands := rfl
@[simp] theorem State.emit_clockIn (e : Event) : (s.emit e).clockIn = s.clockIn := rfl
@[simp] theorem State.emit_readIn (e : Event) : (s.emit e).readIn = s.readIn := rfl
@[simp] theorem State.emit_draws (e : Event) : (s.emit e).draws = s.draws := rfl
@[simp] theorem State.emit_out (e : Event) : (s.emit e).out = s.out ++ [e] := rfl

/-! ### respond -/

@[simp] theorem State.respond_slots (st : Status) (v : Word) : (s.respond st v).slots = s.slots := rfl
@[simp] theorem State.respond_pins (st : Status) (v : Word) : (s.respond st v).pins = s.pins := rfl
@[simp] theorem State.respond_now (st : Status) (v : Word) : (s.respond st v).now = s.now := rfl
@[simp] theorem State.respond_quantum (st : Status) (v : Word) : (s.respond st v).quantum = s.quantum := rfl
@[simp] theorem State.respond_phase (st : Status) (v : Word) : (s.respond st v).phase = s.phase := rfl
@[simp] theorem State.respond_cur (st : Status) (v : Word) : (s.respond st v).cur = s.cur := rfl
@[simp] theorem State.respond_mod (st : Status) (v : Word) : (s.respond st v).mod = s.mod := rfl
@[simp] theorem State.respond_tpm (st : Status) (v : Word) : (s.respond st v).tpm = s.tpm := rfl
@[simp] theorem State.respond_commands (st : Status) (v : Word) : (s.respond st v).commands = s.commands := rfl
@[simp] theorem State.respond_clockIn (st : Status) (v : Word) : (s.respond st v).clockIn = s.clockIn := rfl
@[simp] theorem State.respond_readIn (st : Status) (v : Word) : (s.respond st v).readIn = s.readIn := rfl
@[simp] theorem State.respond_draws (st : Status) (v : Word) : (s.respond st v).draws = s.draws := rfl
@[simp] theorem State.respond_out (st : Status) (v : Word) : (s.respond st v).out = s.out ++ [.resp st v] := rfl

/-! ### raise -/

@[simp] theorem State.raise_slots (st : Status) : (s.raise st).slots = s.slots := rfl
@[simp] theorem State.raise_pins (st : Status) : (s.raise st).pins = s.pins := rfl
@[simp] theorem State.raise_now (st : Status) : (s.raise st).now = s.now := rfl
@[simp] theorem State.raise_quantum (st : Status) : (s.raise st).quantum = s.quantum := rfl
@[simp] theorem State.raise_phase (st : Status) : (s.raise st).phase = s.phase := rfl
@[simp] theorem State.raise_cur (st : Status) : (s.raise st).cur = s.cur := rfl
@[simp] theorem State.raise_mod (st : Status) : (s.raise st).mod = s.mod := rfl
@[simp] theorem State.raise_tpm (st : Status) : (s.raise st).tpm = s.tpm := rfl
@[simp] theorem State.raise_commands (st : Status) : (s.raise st).commands = s.commands := rfl
@[simp] theorem State.raise_clockIn (st : Status) : (s.raise st).clockIn = s.clockIn := rfl
@[simp] theorem State.raise_readIn (st : Status) : (s.raise st).readIn = s.readIn := rfl
@[simp] theorem State.raise_draws (st : Status) : (s.raise st).draws = s.draws := rfl
@[simp] theorem State.raise_out (st : Status) : (s.raise st).out = s.out ++ [.resp st 0] := rfl

/-! ### setSlot -/

@[simp] theorem State.setSlot_slots (i : Nat) (x : Slot) : (s.setSlot i x).slots = s.slots.set i x := rfl
@[simp] theorem State.setSlot_pins (i : Nat) (x : Slot) : (s.setSlot i x).pins = s.pins := rfl
@[simp] theorem State.setSlot_now (i : Nat) (x : Slot) : (s.setSlot i x).now = s.now := rfl
@[simp] theorem State.setSlot_quantum (i : Nat) (x : Slot) : (s.setSlot i x).quantum = s.quantum := rfl
@[simp] theorem State.setSlot_phase (i : Nat) (x : Slot) : (s.setSlot i x).phase = s.phase := rfl
@[simp] theorem State.setSlot_cur (i : Nat) (x : Slot) : (s.setSlot i x).cur = s.cur := rfl
@[simp] theorem State.setSlot_mod (i : Nat) (x : Slot) : (s.setSlot i x).mod = s.mod := rfl
@[simp] theorem State.setSlot_tpm (i : Nat) (x : Slot) : (s.setSlot i x).tpm = s.tpm := rfl
@[simp] theorem State.setSlot_commands (i : Nat) (x : Slot) : (s.setSlot i x).commands = s.commands := rfl
@[simp] theorem State.setSlot_clockIn (i : Nat) (x : Slot) : (s.setSlot i x).clockIn = s.clockIn := rfl
@[simp] theorem State.setSlot_readIn (i : Nat) (x : Slot) : (s.setSlot i x).readIn = s.readIn := rfl
@[simp] theorem State.setSlot_draws (i : Nat) (x : Slot) : (s.setSlot i x).draws = s.draws := rfl
@[simp] theorem State.setSlot_out (i : Nat) (x : Slot) : (s.setSlot i x).out = s.out := rfl

/-! ### setPin -/

@[simp] theorem State.setPin_slots (j : Nat) (p : Pin) : (s.setPin j p).slots = s.slots := rfl
@[simp] theorem State.setPin_pins (j : Nat) (p : Pin) : (s.setPin j p).pins = s.pins.set j p := rfl
@[simp] theorem State.setPin_now (j : Nat) (p : Pin) : (s.setPin j p).now = s.now := rfl
@[simp] theorem State.setPin_quantum (j : Nat) (p : Pin) : (s.setPin j p).quantum = s.quantum := rfl
@[simp] theorem State.setPin_phase (j : Nat) (p : Pin) : (s.setPin j p).phase = s.phase := rfl
@[simp] theorem State.setPin_cur (j : Nat) (p : Pin) : (s.setPin j p).cur = s.cur := rfl
@[simp] theorem State.setPin_mod (j : Nat) (p : Pin) : (s.setPin j p).mod = s.mod := rfl
@[simp] theorem State.setPin_tpm (j : Nat) (p : Pin) : (s.setPin j p).tpm = s.tpm := rfl
@[simp] theorem State.setPin_commands (j : Nat) (p : Pin) : (s.setPin j p).commands = s.commands := rfl
@[simp] theorem State.setPin_clockIn (j : Nat) (p : Pin) : (s.setPin j p).clockIn = s.clockIn := rfl
@[simp] theorem State.setPin_readIn (j : Nat) (p : Pin) : (s.setPin j p).readIn = s.readIn := rfl
@[simp] theorem State.setPin_draws (j : Nat) (p : Pin) : (s.setPin j p).draws = s.draws := rfl
@[simp] theorem State.setPin_out (j : Nat) (p : Pin) : (s.setPin j p).out = s.out := rfl

/-! ### setTime -/

@[simp] theorem State.setTime_slots (t : Time) : (s.setTime t).slots = s.slots := rfl
@[simp] theorem State.setTime_pins (t : Time) : (s.setTime t).pins = s.pins := rfl
@[simp] theorem State.setTime_now (t : Time) : (s.setTime t).now = t := rfl
@[simp] theorem State.setTime_quantum (t : Time) : (s.setTime t).quantum = elapsed s.mod s.now t := rfl
@[simp] theorem State.setTime_phase (t : Time) : (s.setTime t).phase = s.phase := rfl
@[simp] theorem State.setTime_cur (t : Time) : (s.setTime t).cur = s.cur := rfl
@[simp] theorem State.setTime_mod (t : Time) : (s.setTime t).mod = s.mod := rfl
@[simp] theorem State.setTime_tpm (t : Time) : (s.setTime t).tpm = s.tpm := rfl
@[simp] theorem State.setTime_commands (t : Time) : (s.setTime t).commands = s.commands := rfl
@[simp] theorem State.setTime_clockIn (t : Time) : (s.setTime t).clockIn = s.clockIn := rfl
@[simp] theorem State.setTime_readIn (t : Time) : (s.setTime t).readIn = s.readIn := rfl
@[simp] theorem State.setTime_draws (t : Time) : (s.setTime t).draws = s.draws := rfl
@[simp] theorem State.setTime_out (t : Time) : (s.setTime t).out = s.out := rfl

/-! ### suspend -/

@[simp] theorem State.suspend_slots (i : Nat) : (s.suspend i).slots = s.slots := rfl
@[simp] theorem State.suspend_pins (i : Nat) : (s.suspend i).pins = s.pins := rfl
@[simp] theorem State.suspend_now (i : Nat) : (s.suspend i).now = s.now := rfl
@[simp] theorem State.suspend_quantum (i : Nat) : (s.suspend i).quantum = s.quantum := rfl
@[simp] theorem State.suspend_phase (i : Nat) : (s.suspend i).phase = .handler := rfl
@[simp] theorem State.suspend_cur (i : Nat) : (s.suspend i).cur = BitVec.ofNat 16 i := rfl
@[simp] theorem State.suspend_mod (i : Nat) : (s.suspend i).mod = s.mod := rfl
@[simp] theorem State.suspend_tpm (i : Nat) : (s.suspend i).tpm = s.tpm := rfl
@[simp] theorem State.suspend_commands (i : Nat) : (s.suspend i).commands = s.commands := rfl
@[simp] theorem State.suspend_clockIn (i : Nat) : (s.suspend i).clockIn = s.clockIn := rfl
@[simp] theorem State.suspend_readIn (i : Nat) : (s.suspend i).readIn = s.readIn := rfl
@[simp] theorem State.suspend_draws (i : Nat) : (s.suspend i).draws = s.draws := rfl
@[simp] theorem State.suspend_out (i : Nat) : (s.suspend i).out = s.out := rfl

/-! ### goIdle -/

@[simp] theorem State.goIdle_slots : (s.goIdle).slots = s.slots := rfl
@[simp] theorem State.goIdle_pins : (s.goIdle).pins = s.pins := rfl
@[simp] theorem State.goIdle_now : (s.goIdle).now = s.now := rfl
@[simp] theorem State.goIdle_quantum : (s.goIdle).quantum = s.quantum := rfl
@[simp] theorem State.goIdle_phase : (s.goIdle).phase = .idle := rfl
@[simp] theorem State.goIdle_cur : (s.goIdle).cur = s.cur := rfl
@[simp] theorem State.goIdle_mod : (s.goIdle).mod = s.mod := rfl
@[simp] theorem State.goIdle_tpm : (s.goIdle).tpm = s.tpm := rfl
@[simp] theorem State.goIdle_commands : (s.goIdle).commands = s.commands := rfl
@[simp] theorem State.goIdle_clockIn : (s.goIdle).clockIn = s.clockIn := rfl
@[simp] theorem State.goIdle_readIn : (s.goIdle).readIn = s.readIn := rfl
@[simp] theorem State.goIdle_draws : (s.goIdle).draws = s.draws := rfl
@[simp] theorem State.goIdle_out : (s.goIdle).out = s.out := rfl

/-! ### accept -/

@[simp] theorem State.accept_slots : (s.accept).slots = s.slots := rfl
@[simp] theorem State.accept_pins : (s.accept).pins = s.pins := rfl
@[simp] theorem State.accept_now : (s.accept).now = s.now := rfl
@[simp] theorem State.accept_quantum : (s.accept).quantum = s.quantum := rfl
@[simp] theorem State.accept_phase : (s.accept).phase = s.phase := rfl
@[simp] theorem State.accept_cur : (s.accept).cur = s.cur := rfl
@[simp] theorem State.accept_mod : (s.accept).mod = s.mod := rfl
@[simp] theorem State.accept_tpm : (s.accept).tpm = s.tpm := rfl
@[simp] theorem State.accept_commands : (s.accept).commands = s.commands.tail := rfl
@[simp] theorem State.accept_clockIn : (s.accept).clockIn = s.clockIn := rfl
@[simp] theorem State.accept_readIn : (s.accept).readIn = s.readIn := rfl
@[simp] theorem State.accept_draws : (s.accept).draws = s.draws := rfl
@[simp] theorem State.accept_out : (s.accept).out = [] := rfl

/-! ### wait -/

@[simp] theorem State.wait_slots : (s.wait).slots = s.slots := rfl
@[simp] theorem State.wait_pins : (s.wait).pins = s.pins := rfl
@[simp] theorem State.wait_now : (s.wait).now = s.now := rfl
@[simp] theorem State.wait_quantum : (s.wait).quantum = s.quantum := rfl
@[simp] theorem State.wait_phase : (s.wait).phase = s.phase := rfl
@[simp] theorem State.wait_cur : (s.wait).cur = s.cur := rfl
@[simp] theorem State.wait_mod : (s.wait).mod = s.mod := rfl
@[simp] theorem State.wait_tpm : (s.wait).tpm = s.tpm := rfl
@[simp] theorem State.wait_commands : (s.wait).commands = s.commands := rfl
@[simp] theorem State.wait_clockIn : (s.wait).clockIn = s.clockIn := rfl
@[simp] theorem State.wait_readIn : (s.wait).readIn = s.readIn := rfl
@[simp] theorem State.wait_draws : (s.wait).draws = s.draws := rfl
@[simp] theorem State.wait_out : (s.wait).out = [] := rfl

/-! ### dropSample -/

@[simp] theorem State.dropSample_slots : s.dropSample.slots = s.slots := by unfold State.dropSample; split <;> rfl
@[simp] theorem State.dropSample_pins : s.dropSample.pins = s.pins := by unfold State.dropSample; split <;> rfl
@[simp] theorem State.dropSample_now : s.dropSample.now = s.now := by unfold State.dropSample; split <;> rfl
@[simp] theorem State.dropSample_quantum : s.dropSample.quantum = s.quantum := by unfold State.dropSample; split <;> rfl
@[simp] theorem State.dropSample_phase : s.dropSample.phase = s.phase := by unfold State.dropSample; split <;> rfl
@[simp] theorem State.dropSample_cur : s.dropSample.cur = s.cur := by unfold State.dropSample; split <;> rfl
@[simp] theorem State.dropSample_mod : s.dropSample.mod = s.mod := by unfold State.dropSample; split <;> rfl
@[simp] theorem State.dropSample_tpm : s.dropSample.tpm = s.tpm := by unfold State.dropSample; split <;> rfl
@[simp] theorem State.dropSample_commands : s.dropSample.commands = s.commands := by unfold State.dropSample; split <;> rfl
@[simp] theorem State.dropSample_readIn : s.dropSample.readIn = s.readIn := by unfold State.dropSample; split <;> rfl
@[simp] theorem State.dropSample_out : s.dropSample.out = s.out := by unfold State.dropSample; split <;> rfl
@[simp] theorem State.dropSample_clockIn : s.dropSample.clockIn = s.clockIn.tail := by unfold State.dropSample; split <;> simp_all
theorem State.dropSample_draws : s.dropSample.draws = if s.clockIn = [] then s.draws + 1 else s.draws := by
  unfold State.dropSample; split <;> simp_all

/-! ### dropReply -/

@[simp] theorem State.dropReply_slots : s.dropReply.slots = s.slots := by unfold State.dropReply; split <;> rfl
@[simp] theorem State.dropReply_pins : s.dropReply.pins = s.pins := by unfold State.dropReply; split <;> rfl
@[simp] theorem State.dropReply_now : s.dropReply.now = s.now := by unfold State.dropReply; split <;> rfl
@[simp] theorem State.dropReply_quantum : s.dropReply.quantum = s.quantum := by unfold State.dropReply; split <;> rfl
@[simp] theorem State.dropReply_phase : s.dropReply.phase = s.phase := by unfold State.dropReply; split <;> rfl
@[simp] theorem State.dropReply_cur : s.dropReply.cur = s.cur := by unfold State.dropReply; split <;> rfl
@[simp] theorem State.dropReply_mod : s.dropReply.mod = s.mod := by unfold State.dropReply; split <;> rfl
@[simp] theorem State.dropReply_tpm : s.dropReply.tpm = s.tpm := by unfold State.dropReply; split <;> rfl
@[simp] theorem State.dropReply_commands : s.dropReply.commands = s.commands := by unfold State.dropReply; split <;> rfl
@[simp] theorem State.dropReply_clockIn : s.dropReply.clockIn = s.clockIn := by unfold State.dropReply; split <;> rfl
@[simp] theorem State.dropReply_out : s.dropReply.out = s.out := by unfold State.dropReply; split <;> rfl
@[simp] theorem State.dropReply_readIn : s.dropReply.readIn = s.readIn.tail := by unfold State.dropReply; split <;> simp_all
theorem State.dropReply_draws : s.dropReply.draws = if s.readIn = [] then s.draws + 1 else s.draws := by
  unfold State.dropReply; split <;> simp_all

end Sys2Proof.Machine
end

