-- ==== Sys2Proof/Laws/Ops.lean ====
section
/-! SUPPORT. For each shared operation, what it can do, said once. -/

namespace Sys2Proof.Machine

/-! ### Lookup in the slot table -/

/-- `firstFrom` finds the first entry that satisfies `f`, and nothing before it does. -/
theorem firstFrom_eq_some (f : Slot → Bool) (l : List Slot) (base i : Nat) (x : Slot) :
    firstFrom f l base = some (i, x) ↔
      base ≤ i ∧ l[i - base]? = some x ∧ f x = true ∧ ∀ k, k < i - base → ∀ y, l[k]? = some y → f y = false := by
  induction l generalizing base with
  | nil => simp [firstFrom]
  | cons z zs ih =>
    unfold firstFrom
    split
    · rename_i hz
      constructor
      · intro h
        cases h
        simp [hz]
      · rintro ⟨h1, h2, _, h4⟩
        by_cases hb : i = base
        · subst hb
          simpa using h2
        · have := h4 0 (by omega) z (by simp)
          simp [hz] at this
    · rename_i hz
      rw [ih]
      constructor
      · rintro ⟨h1, h2, h3, h4⟩
        obtain ⟨m, hm⟩ : ∃ m, i - base = m + 1 := ⟨i - base - 1, by omega⟩
        have hm' : i - (base + 1) = m := by omega
        rw [hm'] at h2 h4
        refine ⟨by omega, by simpa [hm] using h2, h3, fun k hk y hy => ?_⟩
        cases k with
        | zero => simp at hy; subst hy; simpa using hz
        | succ k => exact h4 k (by omega) y (by simpa using hy)
      · rintro ⟨h1, h2, h3, h4⟩
        have hne : i - base ≠ 0 := by
          intro h0
          rw [h0] at h2
          simp at h2
          subst h2
          exact hz h3
        obtain ⟨m, hm⟩ : ∃ m, i - base = m + 1 := ⟨i - base - 1, by omega⟩
        have hm' : i - (base + 1) = m := by omega
        rw [hm']
        rw [hm] at h2 h4
        exact ⟨by omega, by simpa using h2, h3, fun k hk y hy => h4 (k + 1) (by omega) y (by simpa using hy)⟩

/-- `firstFrom` finds nothing exactly when no entry satisfies `f`. -/
theorem firstFrom_eq_none (f : Slot → Bool) (l : List Slot) (base : Nat) :
    firstFrom f l base = none ↔ ∀ x ∈ l, f x = false := by
  induction l generalizing base with
  | nil => simp [firstFrom]
  | cons z zs ih =>
    unfold firstFrom
    split
    · rename_i hz
      simp [hz]
    · rename_i hz
      rw [ih]
      simp_all

/-- A slot the scan from `start` reaches first is an entry of the table, at `start` or above, that fires, and none between fires. -/
theorem State.firstDue_eq_some (s : State) (start i : Nat) (x : Slot) :
    s.firstDue start = some (i, x) ↔
      start ≤ i ∧ s.slots[i]? = some x ∧ x.fires s.mod s.now = true ∧
        ∀ k, start ≤ k → k < i → ∀ y, s.slots[k]? = some y → y.fires s.mod s.now = false := by
  unfold State.firstDue
  rw [firstFrom_eq_some]
  constructor
  · rintro ⟨h1, h2, h3, h4⟩
    refine ⟨h1, ?_, h3, fun k hk1 hk2 y hy => h4 (k - start) (by omega) y ?_⟩
    · rw [List.getElem?_drop, Nat.add_sub_cancel' h1] at h2
      exact h2
    · rw [List.getElem?_drop, Nat.add_sub_cancel' hk1]
      exact hy
  · rintro ⟨h1, h2, h3, h4⟩
    refine ⟨h1, ?_, h3, fun k hk y hy => h4 (start + k) (by omega) (by omega) y ?_⟩
    · rw [List.getElem?_drop, Nat.add_sub_cancel' h1]
      exact h2
    · rw [List.getElem?_drop] at hy
      exact hy

/-- The scan from `start` finds nothing exactly when no slot at `start` or above fires. -/
theorem State.firstDue_eq_none (s : State) (start : Nat) :
    s.firstDue start = none ↔ ∀ k, start ≤ k → ∀ y, s.slots[k]? = some y → y.fires s.mod s.now = false := by
  unfold State.firstDue
  rw [firstFrom_eq_none]
  constructor
  · intro h k hk y hy
    refine h y (List.mem_iff_getElem?.2 ⟨k - start, ?_⟩)
    rw [List.getElem?_drop, Nat.add_sub_cancel' hk]
    exact hy
  · intro h x hx
    obtain ⟨k, hk⟩ := List.mem_iff_getElem?.1 hx
    rw [List.getElem?_drop] at hk
    exact h (start + k) (by omega) x hk

/-! ### Operand forms -/

/-- A slot operand names an entry exactly when the index is below N. -/
theorem State.slotAt_eq_some (s : State) (idx : Idx) (x : Slot) : s.slotAt idx = some x ↔ s.slots[idx.toNat]? = some x := by
  unfold State.slotAt
  split
  · rfl
  · rename_i h
    have : s.slots[idx.toNat]? = none := List.getElem?_eq_none (by simpa [State.cfg] using h)
    simp [this]

/-- A slot operand names nothing exactly when the index is N or more. -/
theorem State.slotAt_eq_none (s : State) (idx : Idx) : s.slotAt idx = none ↔ s.slots.length ≤ idx.toNat := by
  unfold State.slotAt
  split <;> rename_i h <;> simp only [State.cfg] at h
  · simp
  · simp only [true_iff]
    omega

/-- A pin operand names an entry exactly when the index is below M. -/
theorem State.pinAt_eq_some (s : State) (idx : Idx) (p : Pin) : s.pinAt idx = some p ↔ s.pins[idx.toNat]? = some p := by
  unfold State.pinAt
  split
  · rfl
  · rename_i h
    have : s.pins[idx.toNat]? = none := List.getElem?_eq_none (by simpa [State.cfg] using h)
    simp [this]

/-- A pin operand names nothing exactly when the index is M or more. -/
theorem State.pinAt_eq_none (s : State) (idx : Idx) : s.pinAt idx = none ↔ s.pins.length ≤ idx.toNat := by
  unfold State.pinAt
  split <;> rename_i h <;> simp only [State.cfg] at h
  · simp
  · simp only [true_iff]
    omega

/-- An explicit target below N is that index. -/
theorem State.target_index (s : State) (idx : Idx) (h : idx.toNat < s.slots.length) : s.target (some idx) = .ok idx.toNat :=
  if_pos h

/-- An explicit target at N or above fails with E_INDEX. -/
theorem State.target_index_out (s : State) (idx : Idx) (h : s.slots.length ≤ idx.toNat) : s.target (some idx) = .error .eIndex :=
  if_neg (Nat.not_lt.2 h)

/-- The `auto` target is the first free slot, or fails with NO_SLOT. -/
theorem State.target_auto (s : State) :
    (∃ i, s.firstFree = some i ∧ s.target none = .ok i) ∨ (s.firstFree = none ∧ s.target none = .error .noSlot) := by
  cases h : s.firstFree with
  | some i => exact .inl ⟨i, rfl, by simp [State.target, h]⟩
  | none => exact .inr ⟨rfl, by simp [State.target, h]⟩

/-- The target of a registration is an entry of the table. -/
theorem State.target_lt (s : State) (sel : Option Idx) (i : Nat) (h : s.target sel = .ok i) : i < s.slots.length := by
  cases sel with
  | some idx =>
    by_cases hlt : idx.toNat < s.slots.length
    · simp only [State.target, State.cfg, hlt, if_true, Except.ok.injEq] at h
      omega
    · simp [State.target, State.cfg, hlt] at h
  | none =>
    simp only [State.target] at h
    split at h
    · rename_i k hk
      cases h
      simp only [State.firstFree, Option.map_eq_some_iff] at hk
      obtain ⟨⟨j, x⟩, hj, rfl⟩ := hk
      have := ((firstFrom_eq_some _ _ _ _ _).1 hj).2.1
      exact (List.getElem?_eq_some_iff.1 (by simpa using this)).1
    · cases h

/-- A registration answers a status alone, or writes its target slot and answers the index. -/
theorem State.register_cases (s : State) (rep ms : Bool) (sel : Option Idx) (a b : Word) :
    (∃ st, s.target sel = .error st ∧ s.register rep ms sel a b = s.raise st) ∨
      (∃ i, s.target sel = .ok i ∧ s.register rep ms sel a b =
        (s.setSlot i ⟨true, b, s.duration ms a, s.now, rep⟩).respond .ok (BitVec.ofNat 32 i)) := by
  unfold State.register
  split <;> rename_i h
  · exact .inl ⟨_, h, rfl⟩
  · exact .inr ⟨_, h, rfl⟩

/-- A pulse answers E_INDEX alone, or emits its two events, writes its pin record and answers. -/
theorem State.pulse_cases (s : State) (ms an : Bool) (val : Val) (idx : Idx) (a : Word) :
    (s.pinAt idx = none ∧ s.pulse ms an val idx a = s.raise .eIndex) ∨
      (∃ p, s.pinAt idx = some p ∧ s.pulse ms an val idx a =
        (((s.emit (.ioSetOutput idx)).emit (assertEvent an idx val)).setPin idx.toNat
          { p with firedAt := s.now, delay := s.duration ms a, targetValue := val }).respond .ok 0) := by
  unfold State.pulse
  split <;> rename_i h
  · exact .inl ⟨h, rfl⟩
  · exact .inr ⟨_, h, rfl⟩

/-! ### The scans -/

/-- One pin of the scan: a capture read, a release, or nothing. -/
theorem State.pinStep_cases (s : State) (j : Nat) :
    s.pinStep j = s ∨
      (∃ p, s.pins[j]? = some p ∧ p.readingAt ≠ 0 ∧ s.pinStep j =
        (s.dropReply.emit (.ioRead (BitVec.ofNat 16 j) s.readReply)).setPin j (p.observe s.now s.readReply)) ∨
      (∃ p, s.pins[j]? = some p ∧ p.readingAt = 0 ∧ p.firedAt ≠ 0 ∧ due s.mod p.firedAt s.now p.delay = true ∧ s.pinStep j =
        (s.emit (.ioWrite (BitVec.ofNat 16 j) (linv p.targetValue))).setPin j { p with firedAt := 0, delay := 0 }) := by
  unfold State.pinStep
  split
  · exact .inl rfl
  · rename_i p hp
    split
    · rename_i hc
      exact .inr (.inl ⟨p, hp, by simpa [Pin.capturing] using hc, rfl⟩)
    · rename_i hc
      split
      · rename_i ha
        unfold State.pulseStep
        split
        · rename_i hd
          simp [Pin.asserted] at ha
          exact .inr (.inr ⟨p, hp, ha.1, ha.2, hd, rfl⟩)
        · exact .inl rfl
      · exact .inl rfl

/-- A property of the state that every pin step keeps is kept by the pin scan. -/
theorem State.pinScan_induction (P : State → Prop) (s : State) (h0 : P s) (hstep : ∀ t j, P t → P (t.pinStep j)) : P s.pinScan := by
  unfold State.pinScan
  generalize List.range s.cfg.m = l
  induction l generalizing s with
  | nil => exact h0
  | cons j l ih => exact ih (s.pinStep j) (hstep s j h0)

/-- What the pin scan never writes. -/
theorem State.pinScan_frame (s : State) :
    s.pinScan.slots = s.slots ∧ s.pinScan.now = s.now ∧ s.pinScan.quantum = s.quantum ∧ s.pinScan.phase = s.phase ∧
      s.pinScan.cur = s.cur ∧ s.pinScan.mod = s.mod ∧ s.pinScan.tpm = s.tpm ∧ s.pinScan.commands = s.commands ∧
      s.pinScan.clockIn = s.clockIn ∧ s.pinScan.pins.length = s.pins.length := by
  refine s.pinScan_induction (fun t => t.slots = s.slots ∧ t.now = s.now ∧ t.quantum = s.quantum ∧ t.phase = s.phase ∧
    t.cur = s.cur ∧ t.mod = s.mod ∧ t.tpm = s.tpm ∧ t.commands = s.commands ∧ t.clockIn = s.clockIn ∧
    t.pins.length = s.pins.length) (by simp) fun t j ht => ?_
  rcases t.pinStep_cases j with h | ⟨p, _, _, h⟩ | ⟨p, _, _, _, _, h⟩ <;> rw [h] <;> simpa using ht

/-- The rest of a tick: a dispatch of the first firing slot, or the pin scan and the end of the tick. -/
theorem State.advance_cases (s : State) (start : Nat) :
    (∃ i x, s.firstDue start = some (i, x) ∧ s.advance start = s.dispatch i x) ∨
      (s.firstDue start = none ∧ s.advance start = s.pinScan.goIdle.respond .ok 0) := by
  unfold State.advance
  split <;> rename_i h
  · exact .inl ⟨_, _, h, rfl⟩
  · exact .inr ⟨h, rfl⟩

/-- A dispatch writes one slot's lastFired, PHASE and CUR, and emits two events. -/
theorem State.dispatch_eq (s : State) (i : Nat) (x : Slot) :
    s.dispatch i x =
      { s with slots := s.slots.set i { x with lastFired := s.now }, phase := .handler, cur := BitVec.ofNat 16 i,
               out := s.out ++ [.dispatch (BitVec.ofNat 16 i) x.hid, .resp .ok 1] } := by
  simp [State.dispatch, State.setSlot, State.suspend, State.emit, State.respond]

/-- The return from a handler writes at most `occ` of the handled slot. -/
theorem State.releaseOneShot_eq (s : State) (x : Slot) (h : s.slots[s.cur.toNat]? = some x) :
    s.releaseOneShot x = { s with slots := s.slots.set s.cur.toNat { x with occ := x.occ && x.rep } } := by
  unfold State.releaseOneShot
  obtain ⟨hlt, hx⟩ := List.getElem?_eq_some_iff.1 h
  split <;> rename_i hr
  · have : ({ x with occ := x.occ && x.rep } : Slot) = x := by cases x; simp_all
    rw [this, ← hx, List.set_getElem_self]
  · simp [State.setSlot, hr]

end Sys2Proof.Machine
end

