-- ==== Sys2Proof/Laws/PerInstr.lean ====
section
/-! SUPPORT. The per-instruction family: decoding the fields an instruction sets gives the instruction back. -/

namespace Sys2Proof.Laws.FieldsRoundTrip

/-- The fields a well-formed instruction sets decode to it. -/
def Statement (i : Instr) : Prop := i.WellFormed → i.fields.decode = .ok i

theorem tick : Statement .tick :=
  fun _ => (Fields.check_eq_ok ..).2 (by simp [Instr.fields, Fields.blank, ValKind.admits])

theorem regp (idx : Idx) (a : Word) (b : Word) : Statement (.regp idx a b) :=
  fun _ => (Fields.check_eq_ok ..).2 (by simp [Instr.fields, Fields.blank, ValKind.admits])

theorem regpAuto (a : Word) (b : Word) : Statement (.regpAuto a b) :=
  fun _ => (Fields.check_eq_ok ..).2 (by simp [Instr.fields, Fields.blank, ValKind.admits])

theorem regpMs (idx : Idx) (a : Word) (b : Word) : Statement (.regpMs idx a b) :=
  fun _ => (Fields.check_eq_ok ..).2 (by simp [Instr.fields, Fields.blank, ValKind.admits])

theorem regpMsAuto (a : Word) (b : Word) : Statement (.regpMsAuto a b) :=
  fun _ => (Fields.check_eq_ok ..).2 (by simp [Instr.fields, Fields.blank, ValKind.admits])

theorem reg1 (idx : Idx) (a : Word) (b : Word) : Statement (.reg1 idx a b) :=
  fun _ => (Fields.check_eq_ok ..).2 (by simp [Instr.fields, Fields.blank, ValKind.admits])

theorem reg1Auto (a : Word) (b : Word) : Statement (.reg1Auto a b) :=
  fun _ => (Fields.check_eq_ok ..).2 (by simp [Instr.fields, Fields.blank, ValKind.admits])

theorem reg1Ms (idx : Idx) (a : Word) (b : Word) : Statement (.reg1Ms idx a b) :=
  fun _ => (Fields.check_eq_ok ..).2 (by simp [Instr.fields, Fields.blank, ValKind.admits])

theorem reg1MsAuto (a : Word) (b : Word) : Statement (.reg1MsAuto a b) :=
  fun _ => (Fields.check_eq_ok ..).2 (by simp [Instr.fields, Fields.blank, ValKind.admits])

theorem chgp (idx : Idx) (a : Word) : Statement (.chgp idx a) :=
  fun _ => (Fields.check_eq_ok ..).2 (by simp [Instr.fields, Fields.blank, ValKind.admits])

theorem clrs (idx : Idx) : Statement (.clrs idx) :=
  fun _ => (Fields.check_eq_ok ..).2 (by simp [Instr.fields, Fields.blank, ValKind.admits])

theorem free : Statement .free :=
  fun _ => (Fields.check_eq_ok ..).2 (by simp [Instr.fields, Fields.blank, ValKind.admits])

theorem pulse (val : Val) (idx : Idx) (a : Word) : Statement (.pulse val idx a) :=
  fun h => (Fields.check_eq_ok ..).2 (by simp_all [Instr.fields, Fields.blank, ValKind.admits, Instr.WellFormed])

theorem pulseMs (val : Val) (idx : Idx) (a : Word) : Statement (.pulseMs val idx a) :=
  fun h => (Fields.check_eq_ok ..).2 (by simp_all [Instr.fields, Fields.blank, ValKind.admits, Instr.WellFormed])

theorem pulseA (val : Val) (idx : Idx) (a : Word) : Statement (.pulseA val idx a) :=
  fun _ => (Fields.check_eq_ok ..).2 (by simp [Instr.fields, Fields.blank, ValKind.admits])

theorem pulseMsA (val : Val) (idx : Idx) (a : Word) : Statement (.pulseMsA val idx a) :=
  fun _ => (Fields.check_eq_ok ..).2 (by simp [Instr.fields, Fields.blank, ValKind.admits])

theorem pulsein (val : Val) (idx : Idx) : Statement (.pulsein val idx) :=
  fun h => (Fields.check_eq_ok ..).2 (by simp_all [Instr.fields, Fields.blank, ValKind.admits, Instr.WellFormed])

theorem isbusy (idx : Idx) : Statement (.isbusy idx) :=
  fun _ => (Fields.check_eq_ok ..).2 (by simp [Instr.fields, Fields.blank, ValKind.admits])

theorem clrp (idx : Idx) : Statement (.clrp idx) :=
  fun _ => (Fields.check_eq_ok ..).2 (by simp [Instr.fields, Fields.blank, ValKind.admits])

theorem clrpF (val : Val) (idx : Idx) : Statement (.clrpF val idx) :=
  fun h => (Fields.check_eq_ok ..).2 (by simp_all [Instr.fields, Fields.blank, ValKind.admits, Instr.WellFormed])

theorem elapsed (a : Word) (b : Word) : Statement (.elapsed a b) :=
  fun _ => (Fields.check_eq_ok ..).2 (by simp [Instr.fields, Fields.blank, ValKind.admits])

theorem rd (idx : Idx) : Statement (.rd idx) :=
  fun _ => (Fields.check_eq_ok ..).2 (by simp [Instr.fields, Fields.blank, ValKind.admits])

theorem done : Statement .done :=
  fun _ => (Fields.check_eq_ok ..).2 (by simp [Instr.fields, Fields.blank, ValKind.admits])

end Sys2Proof.Laws.FieldsRoundTrip
end

