-- ==== Sys2Proof/Laws/Safety.lean ====
section
/-! SUPPORT. What running several commands can do. -/

namespace Sys2Proof.Machine

@[simp] theorem State.afterAll_nil (s : State) : s.afterAll [] = .next s := rfl

theorem State.afterAll_cons (i : Instr) (is : List Instr) (s t : State) (h : exec i s = .next t) :
    s.afterAll (i :: is) = t.afterAll is := by
  simp only [State.afterAll, h]

/-- If a run of commands answers a next state, its first command did, and the rest ran from there. -/
theorem State.afterAll_cons_next (i : Instr) (is : List Instr) (s w : State) (h : s.afterAll (i :: is) = .next w) :
    ∃ t, exec i s = .next t ∧ t.afterAll is = .next w := by
  cases hi : exec i s with
  | next t => exact ⟨t, rfl, by rwa [State.afterAll_cons i is s t hi] at h⟩
  | fault r => simp [State.afterAll, hi] at h
  | refused r => simp [State.afterAll, hi] at h

@[simp] theorem State.afterDones_zero (s : State) : s.afterDones 0 = .next s := rfl

theorem State.afterDones_succ (k : Nat) (s t : State) (h : exec .done s = .next t) : s.afterDones (k + 1) = t.afterDones k :=
  State.afterAll_cons .done _ s t h

end Sys2Proof.Machine
end

