-- ==== Sys2Proof/Tests/Slice0.lean ====
section
/-! SUPPORT. Tests. Every expected value is the spec's: the examples of the rules named in a section's heading, and rows of
95_test_vectors.md and 96_more_test_vectors.md. At the end, for each obligation with hypotheses, a theorem `witness_…` that meets them. -/

namespace Sys2Proof.Tests

open Sys2Proof Sys2Proof.Machine

/-! ### Well-formedness: a level above 1 is refused, and its word is illegal (R83, R84; 96_more_test_vectors.md section 2) -/

theorem test_wf_pulse : ¬(Instr.pulse 2 1 100).WellFormed ∧ (decode (encode (.pulse 2 1 100))).toOption = none :=
  ⟨by simp [Instr.WellFormed], by decide⟩
theorem test_wf_pulseMs : ¬(Instr.pulseMs 255 0 2).WellFormed ∧ (decode (encode (.pulseMs 255 0 2))).toOption = none :=
  ⟨by simp [Instr.WellFormed], by decide⟩
theorem test_wf_pulsein : ¬(Instr.pulsein 2 0).WellFormed ∧ (decode (encode (.pulsein 2 0))).toOption = none :=
  ⟨by simp [Instr.WellFormed], by decide⟩
theorem test_wf_clrpF : ¬(Instr.clrpF 128 1).WellFormed ∧ (decode (encode (.clrpF 128 1))).toOption = none :=
  ⟨by simp [Instr.WellFormed], by decide⟩
theorem test_wf_level : (Instr.pulse 1 1 100).WellFormed ∧ (Instr.pulse 0 1 100).WellFormed :=
  ⟨by simp [Instr.WellFormed], by simp [Instr.WellFormed]⟩

/-! ### Decoding: one word of the spec for every constructor (examples of R118 to R230) -/

theorem test_decode_tick : decode 0x100000000000000000000000 = .ok .tick := by decide
theorem test_decode_regp : decode 0x20000002000000FA000000B2 = .ok (.regp 2 250 0xB2) := by decide
theorem test_decode_regpAuto : decode 0x2400000000000064000000A1 = .ok (.regpAuto 100 0xA1) := by decide
theorem test_decode_regpMs : decode 0x2800000000000005000000C3 = .ok (.regpMs 0 5 0xC3) := by decide
theorem test_decode_regpMsAuto : decode 0x2C0000000000000200000010 = .ok (.regpMsAuto 2 0x10) := by decide
theorem test_decode_reg1 : decode 0x3000000300000028000000D4 = .ok (.reg1 3 40 0xD4) := by decide
theorem test_decode_reg1Auto : decode 0x340000000000001E000000E5 = .ok (.reg1Auto 30 0xE5) := by decide
theorem test_decode_reg1Ms : decode 0x3800000100000003000000F6 = .ok (.reg1Ms 1 3 0xF6) := by decide
theorem test_decode_reg1MsAuto : decode 0x3C0000000000000100000077 = .ok (.reg1MsAuto 1 0x77) := by decide
theorem test_decode_chgp : decode 0x40000002000003E800000000 = .ok (.chgp 2 1000) := by decide
theorem test_decode_clrs : decode 0x500000010000000000000000 = .ok (.clrs 1) := by decide
theorem test_decode_free : decode 0x600000000000000000000000 = .ok .free := by decide
theorem test_decode_pulse : decode 0x700100010000006400000000 = .ok (.pulse 1 1 100) := by decide
theorem test_decode_pulseMs : decode 0x780000000000000200000000 = .ok (.pulseMs 0 0 2) := by decide
theorem test_decode_pulseA : decode 0x728000020000003200000000 = .ok (.pulseA 128 2 50) := by decide
theorem test_decode_pulseMsA : decode 0x7AFF00030000000100000000 = .ok (.pulseMsA 255 3 1) := by decide
theorem test_decode_pulsein : decode 0x800100000000000000000000 = .ok (.pulsein 1 0) := by decide
theorem test_decode_isbusy : decode 0x900000010000000000000000 = .ok (.isbusy 1) := by decide
theorem test_decode_clrp : decode 0xA00000000000000000000000 = .ok (.clrp 0) := by decide
theorem test_decode_clrpF : decode 0xA10000010000000000000000 = .ok (.clrpF 0 1) := by decide
theorem test_decode_elapsed : decode 0xB0000000FFFFFFF000000010 = .ok (.elapsed 0xFFFFFFF0 0x10) := by decide
theorem test_decode_rd : decode 0xC000100A0000000000000000 = .ok (.rd 0x100A) := by decide
theorem test_decode_done : decode 0xD00000000000000000000000 = .ok .done := by decide

/-! Words of 96_more_test_vectors.md section 2: none is an instruction, and why. -/

theorem test_decode_illegal1 : decode 0x000000000000000000000000 = .error .reservedOpcode := by decide
theorem test_decode_illegal2 : decode 0xFFFFFFFFFFFFFFFFFFFFFFFF = .error .reservedOpcode := by decide
theorem test_decode_illegal3 : decode 0xE00000000000000000000000 = .error .reservedOpcode := by decide
theorem test_decode_illegal4 : decode 0x100000010000000000000000 = .error .strayIndex := by decide
theorem test_decode_illegal5 : decode 0x100000000000000000000001 = .error .strayB := by decide
theorem test_decode_illegal6 : decode 0x180000000000000000000000 = .error .strayFlag := by decide
theorem test_decode_illegal7 : decode 0x2400000100000064000000A1 = .error .strayIndex := by decide
theorem test_decode_illegal8 : decode 0x210000000000000100000001 = .error .strayFlag := by decide
theorem test_decode_illegal9 : decode 0x200100000000000100000001 = .error .badValue := by decide
theorem test_decode_illegal10 : decode 0x320000000000000100000001 = .error .strayFlag := by decide
theorem test_decode_illegal11 : decode 0x480000000000000500000000 = .error .strayFlag := by decide
theorem test_decode_illegal12 : decode 0x400000000000000500000001 = .error .strayB := by decide

/-- The host's numbering: bit 0 is the least significant bit of the one 96-bit word (log 11). -/
theorem test_decodeTableWord : decodeTableWord 96 0x3000000300000028000000D4 = some (.reg1 3 40 0xD4) := by decide

/-! ### One step of every instruction -/

/-- The state of the examples: configuration CFG_T, idle, all free and idle but for what is given. -/
def st (now : Time) (slots : List Slot := [.reset, .reset, .reset, .reset]) (pins : List Pin := [.reset, .reset, .reset, .reset]) :
    State := { State.reset with now, slots, pins }

/-- The next state, if the instruction completes. -/
def after (i : Instr) (s : State) : Option State :=
  match exec i s with
  | .next t => some t
  | _ => none

theorem test_regp : (after (.regp 2 250 0xB2) (st 5000)).map (fun t => (t.slots[2]?, t.out)) =
    some (some ⟨true, 0xB2, 250, 5000, true⟩, [.resp .ok 2]) := by decide
theorem test_regpAuto : (after (.regpAuto 100 0xA1) (st 0 [⟨true, 1, 10, 0, true⟩, ⟨true, 2, 20, 0, true⟩, .reset, .reset])).map
    (fun t => (t.slots[2]?, t.out)) = some (some ⟨true, 0xA1, 100, 0, true⟩, [.resp .ok 2]) := by decide
theorem test_regpMs : (after (.regpMs 0 5 0xC3) (st 70)).map (fun t => (t.slots[0]?, t.out)) =
    some (some ⟨true, 0xC3, 5000, 70, true⟩, [.resp .ok 0]) := by decide
theorem test_regpMs_truncates : (after (.regpMs 3 4294968 0xC3) (st 5000)).map (fun t => t.slots[3]?) =
    some (some ⟨true, 0xC3, 704, 5000, true⟩) := by decide
theorem test_regpMsAuto : (after (.regpMsAuto 2 0x10) (st 0)).map (fun t => (t.slots[0]?, t.out)) =
    some (some ⟨true, 0x10, 2000, 0, true⟩, [.resp .ok 0]) := by decide
theorem test_reg1 : (after (.reg1 3 40 0xD4) (st 1000)).map (fun t => (t.slots[3]?, t.out)) =
    some (some ⟨true, 0xD4, 40, 1000, false⟩, [.resp .ok 3]) := by decide
theorem test_reg1Auto : (after (.reg1Auto 30 0xE5) (st 0)).map (fun t => (t.slots[0]?, t.out)) =
    some (some ⟨true, 0xE5, 30, 0, false⟩, [.resp .ok 0]) := by decide
theorem test_reg1Ms : (after (.reg1Ms 1 3 0xF6) (st 9)).map (fun t => (t.slots[1]?, t.out)) =
    some (some ⟨true, 0xF6, 3000, 9, false⟩, [.resp .ok 1]) := by decide
theorem test_reg1MsAuto : (after (.reg1MsAuto 1 0x77) (st 0 [⟨true, 1, 10, 0, true⟩, .reset, .reset, .reset])).map
    (fun t => (t.slots[1]?, t.out)) = some (some ⟨true, 0x77, 1000, 0, false⟩, [.resp .ok 1]) := by decide
theorem test_chgp : (after (.chgp 2 1000) (st 7000 [.reset, .reset, ⟨true, 0xB2, 250, 5000, true⟩, .reset])).map
    (fun t => (t.slots[2]?, t.out)) = some (some ⟨true, 0xB2, 1000, 7000, true⟩, [.resp .ok 0]) := by decide
theorem test_clrs : (after (.clrs 1) (st 0 [.reset, ⟨true, 2, 20, 0, true⟩, .reset, .reset])).map
    (fun t => (t.slots[1]?, t.out)) = some (some ⟨false, 2, 20, 0, true⟩, [.resp .ok 0]) := by decide
theorem test_free : (after .free (st 0 [⟨true, 1, 10, 0, true⟩, .reset, ⟨true, 2, 20, 0, true⟩, .reset])).map (·.out) =
    some [.resp .ok 1] := by decide
theorem test_pulse : (after (.pulse 1 1 100) (st 1000)).map (fun t => (t.pins[1]?, t.out)) =
    some (some ⟨1000, 0, 100, 1⟩, [.ioSetOutput 1, .ioWrite 1 1, .resp .ok 0]) := by decide
theorem test_pulseMs : (after (.pulseMs 0 0 2) (st 2000)).map (fun t => (t.pins[0]?, t.out)) =
    some (some ⟨2000, 0, 2000, 0⟩, [.ioSetOutput 0, .ioWrite 0 0, .resp .ok 0]) := by decide
theorem test_pulseA : (after (.pulseA 128 2 50) (st 300)).map (fun t => (t.pins[2]?, t.out)) =
    some (some ⟨300, 0, 50, 128⟩, [.ioSetOutput 2, .ioWriteDuty 2 128, .resp .ok 0]) := by decide
theorem test_pulseMsA : (after (.pulseMsA 255 3 1) (st 40)).map (fun t => (t.pins[3]?, t.out)) =
    some (some ⟨40, 0, 1000, 255⟩, [.ioSetOutput 3, .ioWriteDuty 3 255, .resp .ok 0]) := by decide
theorem test_pulsein : (after (.pulsein 1 0) (st 1000 [] [⟨7, 0, 9, 128⟩])).map (fun t => (t.pins[0]?, t.out)) =
    some (some ⟨0, 1000, 0, 1⟩, [.ioSetInput 0, .resp .ok 0]) := by decide
theorem test_isbusy : (after (.isbusy 1) (st 1000 [] [.reset, ⟨1000, 0, 100, 1⟩])).map (·.out) = some [.resp .ok 1] := by decide
theorem test_isbusy_idle : (after (.isbusy 0) (st 1000)).map (·.out) = some [.resp .ok 0] := by decide
theorem test_clrp : (after (.clrp 0) (st 1080 [] [⟨1020, 1000, 1050, 1⟩])).map (fun t => (t.pins[0]?, t.out)) =
    some (some ⟨0, 0, 0, 1⟩, [.resp .ok 0]) := by decide
theorem test_clrpF : (after (.clrpF 0 1) (st 1080 [] [.reset, ⟨1020, 0, 50, 1⟩])).map (fun t => (t.pins[1]?, t.out)) =
    some (some ⟨0, 0, 0, 1⟩, [.ioWrite 1 0, .resp .ok 0]) := by decide
theorem test_elapsed : (after (.elapsed 0xFFFFFFF0 0x10) (st 0)).map (·.out) = some [.resp .ok 0x20] := by decide
theorem test_elapsed_mod100 : (after (.elapsed 95 5) { st 0 with mod := 100 }).map (·.out) = some [.resp .ok 10] := by decide
theorem test_rd : (after (.rd 0x100A) (st 1000 [] [.reset, .reset, ⟨1000, 0, 1050, 1⟩])).map (·.out) = some [.resp .ok 1050] :=
  rfl
theorem test_rd_unmapped : (after (.rd 0x0120) (st 0)).map (·.out) = some [.resp .eIndex 0] ∧
    (after (.rd 0x0105) (st 0)).map (·.out) = some [.resp .eIndex 0] ∧
    (after (.rd 0x1010) (st 0)).map (·.out) = some [.resp .eIndex 0] ∧
    (after (.rd 0x0004) (st 0)).map (·.out) = some [.resp .eIndex 0] := ⟨rfl, rfl, rfl, rfl⟩
theorem test_tick : (after .tick { State.reset with clockIn := [1000] }).map (fun t => (t.now, t.quantum, t.out)) =
    some (1000, 1000, [.clock 1000, .resp .ok 0]) := by decide
theorem test_tick_dispatch :
    (after .tick { st 10 [.reset, ⟨true, 0x11, 5, 10, true⟩, .reset, ⟨true, 0x33, 5, 10, true⟩] with clockIn := [15] }).map
      (fun t => (t.phase, t.cur, t.out)) = some (.handler, 1, [.clock 15, .dispatch 1 0x11, .resp .ok 1]) := by decide
/-- The example of R200. -/
theorem test_done :
    (after .done { st 0 [.reset, ⟨true, 0x11, 5, 0, false⟩, .reset, .reset] with phase := .handler, cur := 1 }).map
      (fun t => ((t.slots[1]?).map (·.occ), t.phase, t.out)) = some (some false, .idle, [.resp .ok 0]) := by decide
theorem test_done_idle : (after .done (st 0)).map (·.out) = some [.resp .ePhase 0] := by decide

/-! ### The pin scan (95_test_vectors.md, the steps of S6 and S7) -/

theorem test_scan_release : (after .tick { st 1099 [] [.reset, ⟨1000, 0, 100, 1⟩] with clockIn := [1100] }).map
    (fun t => (t.pins[1]?, t.out)) = some (some ⟨0, 0, 0, 1⟩, [.clock 1100, .ioWrite 1 0, .resp .ok 0]) := by decide
theorem test_scan_leading : (after .tick { st 1010 [] [⟨0, 1000, 0, 1⟩] with clockIn := [1020], readIn := [1] }).map
    (fun t => (t.pins[0]?, t.out)) = some (some ⟨1020, 1000, 0, 1⟩, [.clock 1020, .ioRead 0 1, .resp .ok 0]) := by decide
theorem test_scan_trailing : (after .tick { st 1035 [] [⟨1020, 1000, 0, 1⟩] with clockIn := [1050], readIn := [0] }).map
    (fun t => t.pins[0]?) = some (some ⟨1020, 1000, 1050, 1⟩) := by decide
theorem test_scan_kept : (after .tick { st 1050 [] [⟨1020, 1000, 1050, 1⟩] with clockIn := [1060], readIn := [0] }).map
    (fun t => (t.pins[0]?, t.out)) = some (some ⟨1020, 1000, 1050, 1⟩, [.clock 1060, .ioRead 0 0, .resp .ok 0]) := by decide

/-! ### Words in, words out -/

/-- The next state of a whole step. -/
def stepped (s : State) : Option State :=
  match step s with
  | .next t => some t
  | _ => none

theorem test_step_word : (stepped (State.reset.withFetchWord 96 0x3000000300000028000000D4)).map (fun t => (t.slots[3]?, t.out)) =
    some (some ⟨true, 0xD4, 40, 0, false⟩, [.resp .ok 3]) := by decide
theorem test_step_illegal : (stepped (State.reset.withFetchWord 96 0x100000010000000000000000)).map (·.out) =
    some [.resp .eIllegal 0] := by decide
theorem test_ports : respWord .eIndex 0 = 0x200000000 ∧ dispatchWord 1 0xA1 = 0x0001000000A1 ∧ ioWord 3 2 128 = 0x3000280 := by decide
theorem test_assemble : assemble .REGP [.num 2, .num 250, .num 0xB2] = some (.regp 2 250 0xB2) ∧
    assemble .RD [.reg (.pinDelay 2)] = some (.rd 0x100A) ∧ assemble .CLRP [.num 0, .keep] = some (.clrp 0) := by decide
theorem test_line_register : assembleLine "RD SLOT[3].PERIOD" = .command (.rd 0x011A) := by decide
theorem test_line_index : assembleLine "RD SLOT[0x3].PERIOD" = .command (.rd 0x011A) ∧
    assembleLine "RD SLOT[].OCC" = .malformed ∧ assembleLine "RD PIN[].DELAY" = .malformed := by decide
theorem test_line_pseudo : assembleLine "  CLRP 3 ,HIGH ; drive it" = .command (.clrpF 1 3) := by decide
theorem test_line_blank : assembleLine "   ; only a comment" = .blank := by decide
theorem test_line_malformed : assembleLine "NOP" = .malformed ∧ assembleLine "PULSE 1, 100, 2" = .malformed ∧
    assembleLine "RD SLOT[256].OCC" = .malformed ∧ assembleLine "REGP 1,, 2" = .malformed := by decide
theorem test_captureDone : (⟨1020, 1000, 1050, 1⟩ : Pin).captureDone = true ∧ (⟨1020, 1000, 0, 1⟩ : Pin).captureDone = false := by decide

/-! ### Witnesses: a state and operands that meet each obligation's hypotheses, clause by clause -/

/-- An idle state: slot 1 falls due at 5000 exactly, slots 0 and 3 later; pin 1 pulses, pin 2 captures, pin 3 has captured. -/
def demo : State :=
  st 4950 [⟨true, 0xA1, 100, 4950, true⟩, ⟨true, 0xB2, 50, 4950, false⟩, .reset, ⟨true, 0xD4, 200, 4900, true⟩]
    [.reset, ⟨4900, 0, 200, 1⟩, ⟨0, 4000, 0, 1⟩, ⟨4500, 4000, 4600, 1⟩]

/-- The same tick suspended at 5000 on slot 1; slot 3, of period `p`, was last fired at 4900. -/
def suspended (p : Time) : State :=
  { demo with
    now := 5000, quantum := 50, phase := .handler, cur := 1
    slots := [⟨true, 0xA1, 100, 4950, true⟩, ⟨true, 0xB2, 50, 5000, false⟩, .reset, ⟨true, 0xD4, p, 4900, true⟩] }

/-- A full table. -/
def full : State := st 0 [⟨true, 1, 10, 0, true⟩, ⟨true, 2, 20, 0, true⟩, ⟨true, 3, 30, 0, true⟩, ⟨true, 4, 40, 0, true⟩]

theorem witness_DecodeEncodeRoundTrip : (Instr.pulse 1 3 0xFFFFFFFF).WellFormed := by simp [Instr.WellFormed]
theorem witness_DecodedWordIsItsEncoding : decode 0x700100010000006400000000 = .ok (.pulse 1 1 100) := by decide
theorem witness_DecoderIsTheOpcodeMap : (∃ r ∈ opcodeMap, r.selects 0x100000000000000000000000 = true) ∧
    ∀ r ∈ opcodeMap, r.selects 0x000000000000000000000000 = false := by decide
theorem witness_AssemblyNamesEveryInstruction : (Instr.clrpF 1 3).WellFormed ∧ Token.high ≠ .keep :=
  ⟨by simp [Instr.WellFormed], by decide⟩
theorem witness_StepRunsTheDecodedCommand :
    (State.reset.withFetchWord 96 0x3000000300000028000000D4).commands = [0x3000000300000028000000D4] ∧
      decode 0x3000000300000028000000D4 = .ok (.reg1 3 40 0xD4) := by decide
theorem witness_IllegalWordsAreAnswered_illegal : (State.reset.withFetchWord 96 0).commands = [0] ∧
    ∀ r ∈ opcodeMap, r.selects 0 = false := by decide
theorem witness_IllegalWordsAreAnswered_legal :
    (State.reset.withFetchWord 96 0x600000000000000000000000).commands = [0x600000000000000000000000] ∧
      (∃ r ∈ opcodeMap, r.selects 0x600000000000000000000000 = true) ∧
      ∃ t, step (State.reset.withFetchWord 96 0x600000000000000000000000) = .next t := ⟨by decide, by decide, _, rfl⟩
theorem witness_NoCommandChangesNothing : State.reset.commands = [] := rfl
theorem witness_EveryCommandEndsInOneResponse : (demo.withFetchWord 96 0x600000000000000000000000).commands ≠ [] ∧
    ∃ t, step (demo.withFetchWord 96 0x600000000000000000000000) = .next t := ⟨by decide, _, rfl⟩
theorem witness_DispatchComesLastAndAlone :
    ∃ t, step ({ demo with clockIn := [5000] }.withFetchWord 96 0x100000000000000000000000) = .next t ∧
      Event.dispatch 1 0xB2 ∈ t.out := ⟨_, rfl, by decide⟩
theorem witness_FailedCommandChangesNothing :
    (∃ t, exec (.clrs 4) demo = .next t ∧ t.out = demo.out ++ [.resp .eIndex 0] ∧
      Event.resp .eIndex 0 ∈ [Event.resp .eIndex 0] ∧ Status.eIndex ≠ .ok) ∧ demo.Inv := ⟨⟨_, rfl, by decide⟩, by decide⟩
theorem witness_PhaseRefusals : (suspended 100).phase = .handler ∧ demo.phase = .idle := by decide
theorem witness_PhaseRefusals_accepted :
    (∃ t, exec .tick { demo with clockIn := [4999], readIn := [0, 0] } = .next t ∧
      t.out = [.clock 4999, .ioRead 2 0, .ioRead 3 0, .resp .ok 0]) ∧ demo.phase = .idle := ⟨⟨_, rfl, by decide⟩, by decide⟩
theorem witness_IndexOutOfRangeRefused : (3 : Idx).toNat < demo.slots.length ∧ ¬(4 : Idx).toNat < demo.slots.length ∧
    ¬(0xFFFF : Idx).toNat < demo.slots.length ∧ (3 : Idx).toNat < demo.pins.length ∧ ¬(4 : Idx).toNat < demo.pins.length ∧
    (demo.regRead 0x100F).isSome = true ∧ (demo.regRead 0x1010).isSome = false :=
  ⟨by decide, by decide, by decide, by decide, by decide, rfl, rfl⟩
theorem witness_FullTableAnswersNoSlot : (∀ x ∈ full.slots, x.occ = true) ∧ ∃ x ∈ demo.slots, x.occ = false := by decide
theorem witness_ElapsedIsTheModularDifference : 1 ≤ 2 ^ 32 ∧ (99 : Time).toNat < 100 ∧ (0 : Time).toNat < 100 := by decide
theorem witness_ElapsedIsTheForwardDistance : 1 ≤ 100 ∧ 100 ≤ 2 ^ 32 ∧ 99 < 100 := by decide
theorem witness_DueCornerCases : 2 ≤ 100 ∧ 100 ≤ (100 : Time).toNat ∧ (99 : Time).toNat + 1 = 100 ∧ (0 : Time).toNat < 100 ∧
    (99 : Time).toNat < 100 ∧ 30 ≤ 100 := by decide
theorem witness_ElapsedCommandResult : 1 ≤ demo.mod ∧ demo.mod ≤ 2 ^ 32 := by decide
theorem witness_FirstFreeIsTheLowestFreeSlot : demo.firstFree = some 2 ∧ full.firstFree = none := by decide
theorem witness_ExplicitRegistrationResult : (3 : Idx).toNat < demo.slots.length ∧ (0 : Idx).toNat < demo.slots.length := by decide
theorem witness_AutoRegistrationResult : (st 0).slots[0]? = some Slot.reset ∧ Slot.reset.occ = false ∧
    ∀ k, k < 0 → ∀ y, (st 0).slots[k]? = some y → y.occ = true := ⟨rfl, rfl, fun k hk => absurd hk (Nat.not_lt_zero k)⟩
theorem witness_AutoRegistrationResult_second :
    (st 0 [⟨true, 1, 10, 0, true⟩, .reset]).slots[1]? = some Slot.reset ∧ Slot.reset.occ = false ∧
      ∀ k, k < 1 → ∀ y, (st 0 [⟨true, 1, 10, 0, true⟩, .reset]).slots[k]? = some y → y.occ = true := by
  refine ⟨rfl, rfl, fun k hk y hy => ?_⟩
  obtain rfl : k = 0 := by omega
  cases hy; rfl
theorem witness_ChangePeriodResult : (∃ x, demo.slots[(3 : Idx).toNat]? = some x) ∧ demo.slots.length ≤ (4 : Idx).toNat :=
  ⟨⟨_, rfl⟩, by decide⟩
theorem witness_ClearSlotResult : (∃ x, demo.slots[(3 : Idx).toNat]? = some x) ∧ demo.slots.length ≤ (4 : Idx).toNat :=
  ⟨⟨_, rfl⟩, by decide⟩
theorem witness_FreeLookupResult : (∃ x, (st 0 [.reset]).slots[0]? = some x ∧ x.occ = false ∧
    ∀ k, k < 0 → ∀ y, (st 0 [.reset]).slots[k]? = some y → y.occ = true) ∧ ∀ x ∈ full.slots, x.occ = true :=
  ⟨⟨_, rfl, rfl, fun k hk => absurd hk (Nat.not_lt_zero k)⟩, by decide⟩
theorem witness_SlotFieldsAreWrittenOnlyAsListed_registration : ∃ t x y, exec (.regp 2 250 0xB2) demo = .next t ∧
    demo.slots[2]? = some x ∧ t.slots[2]? = some y ∧ y.occ ≠ x.occ ∧ y.hid ≠ x.hid ∧ y.rep ≠ x.rep ∧ y.period ≠ x.period ∧
      y.lastFired ≠ x.lastFired := ⟨_, _, _, rfl, rfl, rfl, by decide⟩
theorem witness_SlotFieldsAreWrittenOnlyAsListed_clear : ∃ t x y, exec (.clrs 3) demo = .next t ∧ demo.slots[3]? = some x ∧
    t.slots[3]? = some y ∧ y.occ ≠ x.occ := ⟨_, _, _, rfl, rfl, rfl, by decide⟩
theorem witness_SlotFieldsAreWrittenOnlyAsListed_done : ∃ t x, exec .done (suspended 100) = .next t ∧
    (suspended 100).slots[1]? = some x ∧ x.occ = true ∧ (t.slots[1]?).map (·.occ) = some false := ⟨_, _, rfl, rfl, rfl, by decide⟩
theorem witness_SlotFieldsAreWrittenOnlyAsListed_period : ∃ t x y, exec (.chgp 3 7) demo = .next t ∧ demo.slots[3]? = some x ∧
    t.slots[3]? = some y ∧ y.period ≠ x.period ∧ y.lastFired ≠ x.lastFired := ⟨_, _, _, rfl, rfl, rfl, by decide⟩
theorem witness_SlotFieldsAreWrittenOnlyAsListed_tick : ∃ t x y, exec .tick { demo with clockIn := [5000] } = .next t ∧
    demo.slots[1]? = some x ∧ t.slots[1]? = some y ∧ y.lastFired ≠ x.lastFired ∧ t.phase = .handler ∧ t.cur = 1 :=
  ⟨_, _, ⟨true, 0xB2, 50, 5000, false⟩, rfl, rfl, by decide, by decide, by decide, by decide⟩
theorem witness_SlotFieldsAreWrittenOnlyAsListed_scan : ∃ t x y, exec .done (suspended 100) = .next t ∧
    (suspended 100).slots[3]? = some x ∧ t.slots[3]? = some y ∧ y.lastFired ≠ x.lastFired ∧ t.phase = .handler ∧ t.cur = 3 :=
  ⟨_, _, ⟨true, 0xD4, 100, 5000, true⟩, rfl, rfl, by decide, by decide, by decide, by decide⟩
theorem witness_AutoRegistrationCounts : demo.occupied < demo.slots.length ∧ full.occupied = full.slots.length := by decide
theorem witness_PulseFormsResult : ∃ p, demo.pins[(3 : Idx).toNat]? = some p := ⟨_, rfl⟩
theorem witness_PulseInResult : (3 : Idx).toNat < demo.pins.length ∧ demo.pins.length ≤ (4 : Idx).toNat := by decide
theorem witness_IsBusyResult : (∃ p, demo.pins[(1 : Idx).toNat]? = some p ∧ p.firedAt ≠ 0) ∧
    (∃ p, demo.pins[(2 : Idx).toNat]? = some p ∧ p.readingAt ≠ 0) ∧
    (∃ p, demo.pins[(0 : Idx).toNat]? = some p ∧ p.firedAt = 0 ∧ p.readingAt = 0) ∧ demo.pins.length ≤ (4 : Idx).toNat :=
  ⟨⟨_, rfl, by decide⟩, ⟨_, rfl, by decide⟩, ⟨_, rfl, by decide⟩, by decide⟩
theorem witness_ClearPinResult : (∃ p, demo.pins[(3 : Idx).toNat]? = some p) ∧ demo.pins.length ≤ (4 : Idx).toNat :=
  ⟨⟨_, rfl⟩, by decide⟩
theorem witness_PinFieldsAreWrittenOnlyAsListed : ∃ t p q, exec (.pulsein 1 0) demo = .next t ∧ demo.pins[0]? = some p ∧
    t.pins[0]? = some q ∧ q.readingAt ≠ p.readingAt ∧ q.targetValue ≠ p.targetValue ∧ q ≠ p := ⟨_, _, _, rfl, rfl, rfl, by decide⟩
theorem witness_RequestsAtTimeZeroAreLost : (st 0).now = 0 ∧ (st 0).pins[(3 : Idx).toNat]? = some Pin.reset ∧
    Pin.reset.readingAt = 0 ∧ (st 0).phase = .idle := by decide
/-- A later tick in which a slot is dispatched, its handler pulses another pin, and the DONE scans the pins. -/
theorem witness_RequestsAtTimeZeroAreLost_later :
    (∀ c ∈ [Instr.tick, .pulse 1 2 0, .done], ¬writesPin (3 : Idx).toNat c) ∧
    ({ st 0 [⟨true, 0xA1, 5, 0, true⟩] with clockIn := [10] } : State).cfg.Ok ∧
    ∃ t w, exec (.pulse 1 3 5) { st 0 [⟨true, 0xA1, 5, 0, true⟩] with clockIn := [10] } = .next t ∧
      t.afterAll [.tick, .pulse 1 2 0, .done] = .next w ∧ w.phase = .idle ∧
      w.out = t.out ++ [.clock 10, .dispatch 0 0xA1, .resp .ok 1, .ioSetOutput 2, .ioWrite 2 1, .resp .ok 0, .ioWrite 2 0,
        .resp .ok 0] := by
  refine ⟨by simp [writesPin, pulsesPin, capturesPin, clearsPin], by decide, _, _, rfl, rfl, by decide, by decide⟩
theorem witness_PulseIsReleasedWhenDue_waiting : demo.cfg.Ok ∧ demo.phase = .idle ∧ demo.now ≠ 0 ∧
    demo.pins[(0 : Idx).toNat]? = some Pin.reset ∧ Pin.reset.readingAt = 0 ∧
    ({ demo with clockIn := [4999] } : State).clockIn = [4999] ∧ (4999 : Time).toNat < demo.mod ∧
    (∀ x ∈ demo.slots, x.occ = true → elapsed demo.mod x.lastFired 4999 < x.period) ∧
    elapsed demo.mod demo.now 4999 < 50 := by decide
theorem witness_PulseIsReleasedWhenDue_due : demo.cfg.Ok ∧ demo.phase = .idle ∧ demo.now ≠ 0 ∧
    demo.pins[(0 : Idx).toNat]? = some Pin.reset ∧ Pin.reset.readingAt = 0 ∧
    ({ demo with clockIn := [4999] } : State).clockIn = [4999] ∧ (4999 : Time).toNat < demo.mod ∧
    (∀ x ∈ demo.slots, x.occ = true → elapsed demo.mod x.lastFired 4999 < x.period) ∧
    49 ≤ elapsed demo.mod demo.now 4999 := by decide
theorem witness_TickTakesOneSample : demo.phase = .idle ∧ 1 ≤ demo.mod ∧ demo.mod ≤ 2 ^ 32 ∧
    (0xFFFFFFFF : Time).toNat < demo.mod := by decide
theorem witness_OnlyTheTickMovesTime : (∃ t, exec .free demo = .next t) ∧ Instr.free ≠ .tick ∧ Instr.free ≠ .done :=
  ⟨⟨_, rfl⟩, by decide⟩
theorem witness_TickDispatchesTheLowestDueSlot : demo.cfg.Ok ∧ demo.phase = .idle ∧
    ({ demo with clockIn := [5000] } : State).clockIn = [5000] ∧ (5000 : Time).toNat < demo.mod ∧
    ∃ x, demo.slots[1]? = some x ∧ x.occ = true ∧ x.period ≤ elapsed demo.mod x.lastFired 5000 ∧
      ∀ k y, k < 1 → demo.slots[k]? = some y → y.occ = true → elapsed demo.mod y.lastFired 5000 < y.period := by
  refine ⟨by decide, rfl, rfl, by decide, _, rfl, rfl, by decide, fun k y hk hy _ => ?_⟩
  obtain rfl : k = 0 := by omega
  cases hy; decide
theorem witness_TickWithNothingDueScansThePins : demo.cfg.Ok ∧ demo.phase = .idle ∧
    ({ demo with clockIn := [4999] } : State).clockIn = [4999] ∧ (4999 : Time).toNat < demo.mod ∧
    ∀ x ∈ demo.slots, x.occ = true → elapsed demo.mod x.lastFired 4999 < x.period := by decide
theorem witness_DoneReleasesAOneShot : (suspended 100).phase = .handler ∧
    (suspended 100).slots[(suspended 100).cur.toNat]? = some ⟨true, 0xB2, 50, 5000, false⟩ := by decide
theorem witness_DoneDispatchesTheNextDueSlot : (suspended 100).cfg.Ok ∧ (suspended 100).phase = .handler ∧
    (∃ x, (suspended 100).slots[(suspended 100).cur.toNat]? = some x) ∧ (suspended 100).cur.toNat < 3 ∧
    ∃ y, (suspended 100).slots[3]? = some y ∧ y.occ = true ∧ y.period ≤ elapsed (suspended 100).mod y.lastFired (suspended 100).now ∧
      ∀ k z, (suspended 100).cur.toNat < k → k < 3 → (suspended 100).slots[k]? = some z → z.occ = true →
        elapsed (suspended 100).mod z.lastFired (suspended 100).now < z.period := by
  refine ⟨by decide, rfl, ⟨_, rfl⟩, by decide, _, rfl, rfl, by decide, fun k z hk hk3 hz ho => ?_⟩
  have h1 : 1 < k := hk
  obtain rfl : k = 2 := by omega
  cases hz; cases ho
theorem witness_DoneWithNothingDueScansThePins : (suspended 101).phase = .handler ∧
    (∃ x, (suspended 101).slots[(suspended 101).cur.toNat]? = some x) ∧
    ∀ k z, (suspended 101).cur.toNat < k → (suspended 101).slots[k]? = some z → z.occ = true →
      elapsed (suspended 101).mod z.lastFired (suspended 101).now < z.period := by
  refine ⟨rfl, ⟨_, rfl⟩, fun k z hk hz ho => ?_⟩
  have h1 : 1 < k := hk
  have h4 : k < 4 := (List.getElem?_eq_some_iff.1 hz).1
  obtain rfl | rfl : k = 2 ∨ k = 3 := by omega
  · cases hz; cases ho
  · cases hz; decide
theorem witness_OnlyADueSlotIsDispatched : demo.cfg.Ok ∧ ∃ t, exec .tick { demo with clockIn := [5000] } = .next t ∧
    t.out = demo.out ++ [.clock 5000, .dispatch 1 0xB2, .resp .ok 1] ∧
    Event.dispatch 1 0xB2 ∈ [Event.clock 5000, .dispatch 1 0xB2, .resp .ok 1] := ⟨by decide, _, rfl, by decide⟩
theorem witness_TheScanMovesUpward : (suspended 100).cfg.Ok ∧ (suspended 100).phase = .handler ∧
    ∃ t, exec .done (suspended 100) = .next t ∧ t.phase = .handler := ⟨by decide, rfl, _, rfl, by decide⟩
theorem witness_ATickEndsAfterBoundedlyManyDones : (suspended 100).Inv ∧ (suspended 100).phase = .handler := by decide
theorem witness_ReadMappedRegister : demo.cfg.Ok ∧ (∃ x, demo.slots[3]? = some x) ∧ ∃ p, demo.pins[3]? = some p :=
  ⟨by decide, ⟨_, rfl⟩, ⟨_, rfl⟩⟩
theorem witness_ReadUnmappedAddressFails : demo.cfg.Ok ∧ 0x0004 ≤ (0x0004 : Idx).toNat ∧ (0x00FF : Idx).toNat ≤ 0x00FF ∧
    (0x0105 : Idx).toNat % 8 = 5 ∧ 0x0100 + 8 * demo.slots.length ≤ (0x0120 : Idx).toNat ∧ (0x0120 : Idx).toNat ≤ 0x0FFF ∧
    0x1000 + 4 * demo.pins.length ≤ (0x1010 : Idx).toNat := by decide
theorem witness_RegisterMapIsOneToOne : demo.cfg.Ok ∧ ∃ v, demo.regValue (.pinTargetValue 3) = some v := ⟨by decide, _, rfl⟩
theorem witness_ResetEventAbandonsTheTick : (suspended 100).phase = .handler ∧ (suspended 100).resetEvent.phase = .idle ∧
    Instr.tick ≠ .done := by decide
theorem witness_InvariantHoldsAtReset : Config.Cfg.test.Ok ∧ (⟨1, 256, 2, 2 ^ 32 - 1⟩ : Config.Cfg).Ok := by decide
theorem witness_StepKeepsTheInvariant : demo.Inv ∧
    ∃ t, step ({ demo with clockIn := [5000] }.withFetchWord 96 0x100000000000000000000000) = .next t ∧ t.phase = .handler :=
  ⟨by decide, _, rfl, by decide⟩
theorem witness_StepKeepsTheHandlerStamp : (suspended 100).Inv ∧ (suspended 100).Stamped ∧
    ∃ t, step ((suspended 100).withFetchWord 96 0xD00000000000000000000000) = .next t ∧ t.phase = .handler :=
  ⟨by decide, by decide, _, rfl, by decide⟩
theorem witness_ConfigurationNeverChanges : ∃ t, step demo = .next t := ⟨_, rfl⟩
theorem witness_NoRunEverStops : demo.Inv := by decide
theorem witness_TheOnlyFault : ({ suspended 100 with cur := 4 } : State).phase = .handler ∧
    ({ suspended 100 with cur := 4 } : State).slots.length ≤ ({ suspended 100 with cur := 4 } : State).cur.toNat ∧
    ¬(Instr.tick = .done) := by decide
theorem witness_HandlerIdentifiersAreOpaque : (st 0 [⟨true, 1, 10, 0, true⟩]).blankHids = (st 0 [⟨true, 2, 10, 0, true⟩]).blankHids ∧
    st 0 [⟨true, 1, 10, 0, true⟩] ≠ st 0 [⟨true, 2, 10, 0, true⟩] ∧ (∀ a, Instr.free ≠ .rd a) ∧
    ∃ t, exec .free (st 0 [⟨true, 1, 10, 0, true⟩]) = .next t := ⟨by decide, by decide, fun _ => by simp, _, rfl⟩
theorem witness_QuantumInfluencesNothing : (∀ a, Instr.done ≠ .rd a) ∧ ∃ t, exec .done (suspended 100) = .next t :=
  ⟨fun _ => by simp, _, rfl⟩

end Sys2Proof.Tests
end

/-! ## The scope of a step (00_scope.md R13)

A step takes one command word, runs what it decodes to, and answers once. -/

section

namespace Sys2Proof.Machine

/-! ### The step by the word on the port -/

/-- A word that decodes is run on the state that has taken it from the port (R13, R87). -/
theorem step_of_decode_ok {s : State} {w : Command} {rest : List Command} {i : Instr} (hc : s.commands = w :: rest)
    (hd : decode w = .ok i) : step s = exec i s.accept := by
  simp [step, State.nextCommand, hc, hd]

/-- A word that does not decode is taken and answered as illegal (R86, R243). -/
theorem step_of_decode_error {s : State} {w : Command} {rest : List Command} {e : DecodeError}
    (hc : s.commands = w :: rest) (hd : decode w = .error e) : step s = .next s.accept.illegal := by
  simp [step, State.nextCommand, hc, hd]

theorem State.accept_of_commands {s : State} {w : Command} {rest : List Command} (hc : s.commands = w :: rest) :
    s.accept = { s with commands := rest, out := [] } := by
  simp [State.accept, hc]

/-- What a step that found a command did: it ran the decoded instruction, or answered an illegal word. -/
theorem step_next_cases {s t : State} (hc : s.commands ≠ []) (h : step s = .next t) :
    (∃ i, exec i s.accept = .next t) ∨ t = s.accept.illegal := by
  obtain ⟨w, rest, hw⟩ := List.exists_cons_of_ne_nil hc
  cases hd : decode w with
  | ok i => exact .inl ⟨i, step_of_decode_ok hw hd ▸ h⟩
  | error e =>
    rw [step_of_decode_error hw hd] at h
    cases h
    exact .inr rfl

/-! ### Work without a response -/

/-- From `s` to `u` no command was taken and no response emitted: a part of a command's work before its response. -/
structure State.Silent (s u : State) : Prop where
  commands : u.commands = s.commands
  out : ∃ evs, u.out = s.out ++ evs ∧ ∀ e ∈ evs, ∀ st v, e ≠ .resp st v

theorem State.Silent.of_frame {s u : State} (hc : u.commands = s.commands) (ho : u.out = s.out) : s.Silent u :=
  ⟨hc, [], by simp [ho], by simp⟩

theorem State.Silent.refl (s : State) : s.Silent s := .of_frame rfl rfl

theorem State.Silent.trans {s u w : State} (h : s.Silent u) (k : u.Silent w) : s.Silent w := by
  obtain ⟨hc, es, ho, hes⟩ := h
  obtain ⟨kc, fs, ko, hfs⟩ := k
  exact ⟨kc.trans hc, es ++ fs, by rw [ko, ho, List.append_assoc],
    fun e he => (List.mem_append.1 he).elim (hes e) (hfs e)⟩

theorem State.Silent.emit {s u : State} (h : s.Silent u) {e : Event} (he : ∀ st v, e ≠ .resp st v) :
    s.Silent (u.emit e) :=
  h.trans ⟨rfl, [e], rfl, by simpa using he⟩

theorem State.Silent.setSlot {s u : State} (h : s.Silent u) (i : Nat) (x : Slot) : s.Silent (u.setSlot i x) :=
  h.trans (.of_frame rfl rfl)

theorem State.Silent.setPin {s u : State} (h : s.Silent u) (j : Nat) (p : Pin) : s.Silent (u.setPin j p) :=
  h.trans (.of_frame rfl rfl)

theorem State.Silent.setTime {s u : State} (h : s.Silent u) (t : Time) : s.Silent (u.setTime t) :=
  h.trans (.of_frame rfl rfl)

theorem State.Silent.suspend {s u : State} (h : s.Silent u) (i : Nat) : s.Silent (u.suspend i) :=
  h.trans (.of_frame rfl rfl)

theorem State.Silent.goIdle {s u : State} (h : s.Silent u) : s.Silent u.goIdle :=
  h.trans (.of_frame rfl rfl)

theorem State.silent_dropSample (s : State) : s.Silent s.dropSample := .of_frame (by simp) (by simp)

theorem State.silent_dropReply (s : State) : s.Silent s.dropReply := .of_frame (by simp) (by simp)

theorem State.silent_releaseOneShot (s : State) (x : Slot) : s.Silent (s.releaseOneShot x) := by
  unfold State.releaseOneShot
  split
  · exact .refl s
  · exact (State.Silent.refl s).setSlot _ _

theorem assertEvent_ne_resp (an : Bool) (idx : Idx) (val : Val) (st : Status) (v : Word) :
    assertEvent an idx val ≠ .resp st v := by
  cases an <;> simp [assertEvent]

/-- One pin of the scan emits a driver event or nothing. -/
theorem State.silent_pinStep (s : State) (j : Nat) : s.Silent (s.pinStep j) := by
  rcases s.pinStep_cases j with h | ⟨p, _, _, h⟩ | ⟨p, _, _, _, _, h⟩ <;> rw [h]
  · exact .refl s
  · exact (s.silent_dropReply.emit (by simp)).setPin _ _
  · exact ((State.Silent.refl s).emit (by simp)).setPin _ _

theorem State.silent_pinScan (s : State) : s.Silent s.pinScan :=
  s.pinScan_induction s.Silent (.refl s) fun t j ht => ht.trans (t.silent_pinStep j)

/-! ### Exactly one response, at the end -/

/-- `t` is `s` after work without a response, then one response, of value 0 unless OK (R94, R99). -/
def State.Answers (s t : State) : Prop :=
  ∃ u st v, s.Silent u ∧ (st ≠ .ok → v = 0) ∧ t = u.respond st v

theorem State.Silent.answers_ok {s u : State} (h : s.Silent u) (v : Word) : s.Answers (u.respond .ok v) :=
  ⟨u, .ok, v, h, fun hne => absurd rfl hne, rfl⟩

theorem State.answers_raise (s : State) (st : Status) : s.Answers (s.raise st) :=
  ⟨s, st, 0, .refl s, fun _ => rfl, rfl⟩

theorem State.Silent.answers {s u t : State} (h : s.Silent u) (k : u.Answers t) : s.Answers t := by
  obtain ⟨w, st, v, hw, hv, rfl⟩ := k
  exact ⟨w, st, v, h.trans hw, hv, rfl⟩

theorem State.answers_register (s : State) (rep ms : Bool) (sel : Option Idx) (a b : Word) :
    s.Answers (s.register rep ms sel a b) := by
  rcases s.register_cases rep ms sel a b with ⟨st, _, h⟩ | ⟨i, _, h⟩ <;> rw [h]
  · exact s.answers_raise st
  · exact ((State.Silent.refl s).setSlot _ _).answers_ok _

theorem State.answers_pulse (s : State) (ms an : Bool) (val : Val) (idx : Idx) (a : Word) :
    s.Answers (s.pulse ms an val idx a) := by
  rcases s.pulse_cases ms an val idx a with ⟨_, h⟩ | ⟨p, _, h⟩ <;> rw [h]
  · exact s.answers_raise _
  · exact ((((State.Silent.refl s).emit (by simp)).emit (assertEvent_ne_resp an idx val)).setPin _ _).answers_ok _

/-- The slot scan ends in a dispatch with its response, or in the pin scan and the response that ends the tick. -/
theorem State.answers_advance (s : State) (start : Nat) : s.Answers (s.advance start) := by
  rcases s.advance_cases start with ⟨i, x, _, h⟩ | ⟨_, h⟩ <;> rw [h]
  · exact ((((State.Silent.refl s).setSlot _ _).suspend i).emit (by simp)).answers_ok 1
  · exact s.silent_pinScan.goIdle.answers_ok 0

/-! ### Each instruction answers -/

theorem execTick_answers {s t : State} (h : execTick s = .next t) : s.Answers t := by
  unfold execTick at h
  split at h <;> cases h
  · exact s.answers_raise _
  · exact ((s.silent_dropSample.emit (by simp)).setTime _).answers (State.answers_advance _ 0)

theorem execDone_answers {s t : State} (h : execDone s = .next t) : s.Answers t := by
  unfold execDone at h
  split at h
  · cases h
    exact s.answers_raise _
  · split at h <;> cases h
    exact (s.silent_releaseOneShot _).answers (State.answers_advance _ _)

theorem execChgp_answers {idx : Idx} {a : Word} {s t : State} (h : execChgp idx a s = .next t) : s.Answers t := by
  unfold execChgp at h
  split at h <;> cases h
  · exact s.answers_raise _
  · exact ((State.Silent.refl s).setSlot _ _).answers_ok 0

theorem execClrs_answers {idx : Idx} {s t : State} (h : execClrs idx s = .next t) : s.Answers t := by
  unfold execClrs at h
  split at h <;> cases h
  · exact s.answers_raise _
  · exact ((State.Silent.refl s).setSlot _ _).answers_ok 0

theorem execFree_answers {s t : State} (h : execFree s = .next t) : s.Answers t := by
  unfold execFree at h
  split at h <;> cases h
  · exact s.answers_raise _
  · exact (State.Silent.refl s).answers_ok _

theorem execPulsein_answers {val : Val} {idx : Idx} {s t : State} (h : execPulsein val idx s = .next t) :
    s.Answers t := by
  unfold execPulsein at h
  split at h <;> cases h
  · exact s.answers_raise _
  · exact (((State.Silent.refl s).emit (by simp)).setPin _ _).answers_ok 0

theorem execIsbusy_answers {idx : Idx} {s t : State} (h : execIsbusy idx s = .next t) : s.Answers t := by
  unfold execIsbusy at h
  split at h <;> cases h
  · exact s.answers_raise _
  · exact (State.Silent.refl s).answers_ok _

theorem execClrp_answers {idx : Idx} {s t : State} (h : execClrp idx s = .next t) : s.Answers t := by
  unfold execClrp at h
  split at h <;> cases h
  · exact s.answers_raise _
  · exact ((State.Silent.refl s).setPin _ _).answers_ok 0

theorem execClrpF_answers {val : Val} {idx : Idx} {s t : State} (h : execClrpF val idx s = .next t) :
    s.Answers t := by
  unfold execClrpF at h
  split at h <;> cases h
  · exact s.answers_raise _
  · exact (((State.Silent.refl s).setPin _ _).emit (by simp)).answers_ok 0

theorem execRd_answers {idx : Idx} {s t : State} (h : execRd idx s = .next t) : s.Answers t := by
  unfold execRd at h
  split at h <;> cases h
  · exact s.answers_raise _
  · exact (State.Silent.refl s).answers_ok _

/-- Every instruction that answers a next state ends in exactly one response and takes no command word itself. -/
theorem exec_answers {i : Instr} {s t : State} (h : exec i s = .next t) : s.Answers t := by
  cases i with
  | tick => exact execTick_answers h
  | regp idx a b | regpAuto a b | regpMs idx a b | regpMsAuto a b
  | reg1 idx a b | reg1Auto a b | reg1Ms idx a b | reg1MsAuto a b =>
    cases h
    exact s.answers_register ..
  | chgp idx a => exact execChgp_answers h
  | clrs idx => exact execClrs_answers h
  | free => exact execFree_answers h
  | pulse val idx a | pulseMs val idx a | pulseA val idx a | pulseMsA val idx a =>
    cases h
    exact s.answers_pulse ..
  | pulsein val idx => exact execPulsein_answers h
  | isbusy idx => exact execIsbusy_answers h
  | clrp idx => exact execClrp_answers h
  | clrpF val idx => exact execClrpF_answers h
  | elapsed a b =>
    cases h
    exact (State.Silent.refl s).answers_ok _
  | rd idx => exact execRd_answers h
  | done => exact execDone_answers h

/-- A step that finds a command answers it, from the state that has taken the word. -/
theorem step_answers {s t : State} (hc : s.commands ≠ []) (h : step s = .next t) : s.accept.Answers t := by
  rcases step_next_cases hc h with ⟨i, hi⟩ | rfl
  · exact exec_answers hi
  · exact s.accept.answers_raise .eIllegal

/-! ### The obligations -/

/-- Settles O8: the step at a decoded word, with the state that has taken the word written out. -/
theorem stepRunsTheDecodedCommand : Obligations.StepRunsTheDecodedCommand := by
  intro s w rest i hc hd
  rw [step_of_decode_ok hc hd, State.accept_of_commands hc]

/-- Settles O11: accepting takes the one word and empties the events; the instruction then answers once. -/
theorem everyCommandEndsInOneResponse : Obligations.EveryCommandEndsInOneResponse := by
  intro s t hc h
  obtain ⟨u, st, v, ⟨hcmd, evs, hout, hevs⟩, hv, rfl⟩ := step_answers hc h
  exact ⟨hcmd, evs, st, v, by simp [hout], hevs, hv⟩

end Sys2Proof.Machine

end

/-! ## The effect of one instruction on the state (10_state.md)

What each instruction did, said once in the frames of Safety.lean; the invariants and the access tables R29 and R36 follow by
cases on it. -/

section

namespace Sys2Proof.Machine

/-! ### The three frames: made by an operation, and what they keep -/

theorem State.onlyEmits_respond (s : State) (st : Status) (v : Word) : OnlyEmits [.resp st v] s (s.respond st v) :=
  ⟨rfl, rfl, ⟨rfl, rfl, rfl, rfl⟩, ⟨rfl, rfl⟩, ⟨rfl, rfl, rfl, rfl⟩, rfl⟩

theorem State.onlyEmits_raise (s : State) (st : Status) : OnlyEmits [.resp st 0] s (s.raise st) :=
  s.onlyEmits_respond st 0

/-- A write of one entry of the slot table, with events. -/
theorem State.writesSlot_of_eq {s t : State} {k : Nat} {x : Slot} {evs : List Event} (hk : k < s.slots.length)
    (ht : t = { s with slots := s.slots.set k x, out := s.out ++ evs }) : WritesSlot k x evs s t := by
  subst ht
  exact ⟨List.getElem?_set_self hk, ⟨List.length_set, fun j hj => List.getElem?_set_ne hj.symm⟩, rfl,
    ⟨rfl, rfl, rfl, rfl⟩, ⟨rfl, rfl⟩, ⟨rfl, rfl, rfl, rfl⟩, rfl⟩

theorem State.writesSlot_setSlot_respond (s : State) {k : Nat} (hk : k < s.slots.length) (x : Slot) (st : Status) (v : Word) :
    WritesSlot k x [.resp st v] s ((s.setSlot k x).respond st v) :=
  State.writesSlot_of_eq hk rfl

/-- A write of one entry of the pin table, with events. -/
theorem State.writesPin_of_eq {s t : State} {j : Nat} {q : Pin} {evs : List Event} (hj : j < s.pins.length)
    (ht : t = { s with pins := s.pins.set j q, out := s.out ++ evs }) : WritesPin j q evs s t := by
  subst ht
  exact ⟨List.getElem?_set_self hj, ⟨List.length_set, fun k hk => List.getElem?_set_ne hk.symm⟩, rfl,
    ⟨rfl, rfl, rfl, rfl⟩, ⟨rfl, rfl⟩, ⟨rfl, rfl, rfl, rfl⟩, rfl⟩

theorem WritesSlot.slots_eq {i : Nat} {x : Slot} {evs : List Event} {s t : State} (h : WritesSlot i x evs s t) :
    t.slots = s.slots.set i x := by
  obtain ⟨hx, ⟨hlen, hother⟩, _⟩ := h
  refine List.ext_getElem? fun k => ?_
  by_cases hk : k = i
  · subst hk
    rw [hx, List.getElem?_set_self (hlen ▸ (List.getElem?_eq_some_iff.1 hx).1)]
  · rw [hother k hk, List.getElem?_set_ne (Ne.symm hk)]

theorem WritesPin.pins_eq {j : Nat} {q : Pin} {evs : List Event} {s t : State} (h : WritesPin j q evs s t) :
    t.pins = s.pins.set j q := by
  obtain ⟨hq, ⟨hlen, hother⟩, _⟩ := h
  refine List.ext_getElem? fun k => ?_
  by_cases hk : k = j
  · subst hk
    rw [hq, List.getElem?_set_self (hlen ▸ (List.getElem?_eq_some_iff.1 hq).1)]
  · rw [hother k hk, List.getElem?_set_ne (Ne.symm hk)]

/-- The entry of slot `k` after a write of slot `i`. -/
theorem WritesSlot.slots_getElem? {i k : Nat} {x y z : Slot} {evs : List Event} {s t : State} (h : WritesSlot i x evs s t)
    (hy : s.slots[k]? = some y) (hz : t.slots[k]? = some z) : i = k ∧ z = x ∨ z = y := by
  rw [h.slots_eq, List.getElem?_set] at hz
  split_ifs at hz with hik
  · exact .inl ⟨hik, (Option.some.inj hz).symm⟩
  · exact .inr (Option.some.inj (hz.symm.trans hy))

/-- The record of pin `k` after a write of pin `j`. -/
theorem WritesPin.pins_getElem? {j k : Nat} {q p r : Pin} {evs : List Event} {s t : State} (h : WritesPin j q evs s t)
    (hp : s.pins[k]? = some p) (hr : t.pins[k]? = some r) : j = k ∧ r = q ∨ r = p := by
  rw [h.pins_eq, List.getElem?_set] at hr
  split_ifs at hr with hjk
  · exact .inl ⟨hjk, (Option.some.inj hr).symm⟩
  · exact .inr (Option.some.inj (hr.symm.trans hp))

theorem OnlyEmits.cfg_eq {evs : List Event} {s t : State} (h : OnlyEmits evs s t) : t.cfg = s.cfg := by
  obtain ⟨hslots, hpins, _, ⟨hmod, htpm⟩, _⟩ := h
  simp [State.cfg, hslots, hpins, hmod, htpm]

theorem WritesSlot.cfg_eq {i : Nat} {x : Slot} {evs : List Event} {s t : State} (h : WritesSlot i x evs s t) :
    t.cfg = s.cfg := by
  obtain ⟨_, ⟨hlen, _⟩, hpins, _, ⟨hmod, htpm⟩, _⟩ := h
  simp [State.cfg, hlen, hpins, hmod, htpm]

theorem WritesPin.cfg_eq {j : Nat} {q : Pin} {evs : List Event} {s t : State} (h : WritesPin j q evs s t) :
    t.cfg = s.cfg := by
  obtain ⟨_, ⟨hlen, _⟩, hslots, _, ⟨hmod, htpm⟩, _⟩ := h
  simp [State.cfg, hlen, hslots, hmod, htpm]

/-! ### What an instruction did -/

/-- The state after the clock sample of an accepted TICK, before the slot scan (R190). -/
def State.sampled (s : State) : State := (s.dropSample.emit (.clock s.clockSample)).setTime s.clockSample

/-- From `s` instruction `i` led to `t`: it only answered, wrote one slot or one pin record as its rule says, or took a tick
further. -/
inductive Effect (s : State) : Instr → State → Prop
  /-- a lookup or a refusal. -/
  | answer {i : Instr} {t : State} {evs : List Event} : OnlyEmits evs s t → Effect s i t
  /-- R131. -/
  | registration {i : Instr} {t : State} {k : Nat} {b : Word} {d : Time} {r : Bool} {evs : List Event} :
      registersSlot s k i → WritesSlot k ⟨true, b, d, s.now, r⟩ evs s t → Effect s i t
  /-- R142. -/
  | periodChange {t : State} {idx : Idx} {a : Word} {x : Slot} {evs : List Event} : s.slots[idx.toNat]? = some x →
      WritesSlot idx.toNat { x with period := a, lastFired := s.now } evs s t → Effect s (.chgp idx a) t
  /-- R144. -/
  | slotClear {t : State} {idx : Idx} {x : Slot} {evs : List Event} : s.slots[idx.toNat]? = some x →
      WritesSlot idx.toNat { x with occ := false } evs s t → Effect s (.clrs idx) t
  /-- R161. -/
  | pulse {i : Instr} {t : State} {j : Nat} {p : Pin} {d : Time} {v : Val} {evs : List Event} : pulsesPin j i →
      s.pins[j]? = some p → WritesPin j { p with firedAt := s.now, delay := d, targetValue := v } evs s t → Effect s i t
  /-- R170. -/
  | capture {i : Instr} {t : State} {j : Nat} {v : Val} {evs : List Event} : capturesPin j i →
      WritesPin j ⟨0, s.now, 0, v⟩ evs s t → Effect s i t
  /-- R175, R176. -/
  | pinClear {i : Instr} {t : State} {j : Nat} {p : Pin} {evs : List Event} : clearsPin j i → s.pins[j]? = some p →
      WritesPin j p.cleared evs s t → Effect s i t
  /-- R190. -/
  | tick : s.phase = .idle → Effect s .tick (s.sampled.advance 0)
  /-- R200. -/
  | done {x : Slot} : s.phase = .handler → s.slots[s.cur.toNat]? = some x →
      Effect s .done ((s.releaseOneShot x).advance (s.cur.toNat + 1))

theorem Effect.of_raise {s : State} {i : Instr} (st : Status) : Effect s i (s.raise st) := .answer (s.onlyEmits_raise st)

/-- A registration, by the slot it names. -/
theorem State.register_effect (s : State) {i : Instr} (rep ms : Bool) (sel : Option Idx) (a b : Word)
    (hreg : ∀ k, s.target sel = .ok k → registersSlot s k i) : Effect s i (s.register rep ms sel a b) := by
  rcases s.register_cases rep ms sel a b with ⟨st, _, h⟩ | ⟨k, hk, h⟩ <;> rw [h]
  · exact .of_raise st
  · exact .registration (hreg k hk) (s.writesSlot_setSlot_respond (s.target_lt sel k hk) _ _ _)

theorem State.target_index_eq_ok {s : State} {idx : Idx} {k : Nat} (h : s.target (some idx) = .ok k) : idx.toNat = k := by
  rcases Nat.lt_or_ge idx.toNat s.slots.length with hlt | hge
  · cases (s.target_index idx hlt).symm.trans h
    rfl
  · cases (s.target_index_out idx hge).symm.trans h

theorem State.target_auto_eq_ok {s : State} {k : Nat} (h : s.target none = .ok k) : s.firstFree = some k := by
  rcases s.target_auto with ⟨i, hi, ht⟩ | ⟨_, ht⟩
  · rw [ht] at h
    cases h
    exact hi
  · cases ht.symm.trans h

theorem State.pulse_effect (s : State) {i : Instr} (ms an : Bool) (val : Val) (idx : Idx) (a : Word)
    (hi : pulsesPin idx.toNat i) : Effect s i (s.pulse ms an val idx a) := by
  rcases s.pulse_cases ms an val idx a with ⟨_, h⟩ | ⟨p, hp, h⟩ <;> rw [h]
  · exact .of_raise _
  · have hp := (s.pinAt_eq_some idx p).1 hp
    refine .pulse (d := s.duration ms a) (v := val)
      (evs := [.ioSetOutput idx, assertEvent an idx val, .resp .ok 0]) hi hp
      (State.writesPin_of_eq (List.getElem?_eq_some_iff.1 hp).1 ?_)
    simp [State.setPin, State.respond, State.emit]

theorem execChgp_effect {idx : Idx} {a : Word} {s t : State} (h : execChgp idx a s = .next t) :
    Effect s (.chgp idx a) t := by
  unfold execChgp at h
  split at h <;> cases h
  · exact .of_raise _
  · rename_i x hx
    have hx := (s.slotAt_eq_some idx x).1 hx
    exact .periodChange hx (s.writesSlot_setSlot_respond (List.getElem?_eq_some_iff.1 hx).1 _ _ _)

theorem execClrs_effect {idx : Idx} {s t : State} (h : execClrs idx s = .next t) : Effect s (.clrs idx) t := by
  unfold execClrs at h
  split at h <;> cases h
  · exact .of_raise _
  · rename_i x hx
    have hx := (s.slotAt_eq_some idx x).1 hx
    exact .slotClear hx (s.writesSlot_setSlot_respond (List.getElem?_eq_some_iff.1 hx).1 _ _ _)

theorem execFree_effect {s t : State} (h : execFree s = .next t) : Effect s .free t := by
  unfold execFree at h
  split at h <;> cases h
  · exact .of_raise _
  · exact .answer (s.onlyEmits_respond _ _)

theorem execPulsein_effect {val : Val} {idx : Idx} {s t : State} (h : execPulsein val idx s = .next t) :
    Effect s (.pulsein val idx) t := by
  unfold execPulsein at h
  split at h <;> cases h
  · exact .of_raise _
  · rename_i p hp
    have hp := (s.pinAt_eq_some idx p).1 hp
    refine .capture (v := levelVal (valLevel val)) (evs := [.ioSetInput idx, .resp .ok 0]) (j := idx.toNat) rfl
      (State.writesPin_of_eq (List.getElem?_eq_some_iff.1 hp).1 ?_)
    simp [State.setPin, State.respond, State.emit]

theorem execIsbusy_effect {idx : Idx} {s t : State} (h : execIsbusy idx s = .next t) : Effect s (.isbusy idx) t := by
  unfold execIsbusy at h
  split at h <;> cases h
  · exact .of_raise _
  · exact .answer (s.onlyEmits_respond _ _)

theorem execClrp_effect {idx : Idx} {s t : State} (h : execClrp idx s = .next t) : Effect s (.clrp idx) t := by
  unfold execClrp at h
  split at h <;> cases h
  · exact .of_raise _
  · rename_i p hp
    have hp := (s.pinAt_eq_some idx p).1 hp
    exact .pinClear (evs := [.resp .ok 0]) (j := idx.toNat) rfl hp
      (State.writesPin_of_eq (List.getElem?_eq_some_iff.1 hp).1 rfl)

theorem execClrpF_effect {val : Val} {idx : Idx} {s t : State} (h : execClrpF val idx s = .next t) :
    Effect s (.clrpF val idx) t := by
  unfold execClrpF at h
  split at h <;> cases h
  · exact .of_raise _
  · rename_i p hp
    have hp := (s.pinAt_eq_some idx p).1 hp
    refine .pinClear (evs := [.ioWrite idx (valLevel val), .resp .ok 0]) (j := idx.toNat) rfl hp
      (State.writesPin_of_eq (List.getElem?_eq_some_iff.1 hp).1 ?_)
    simp [State.setPin, State.respond, State.emit]

theorem execRd_effect {idx : Idx} {s t : State} (h : execRd idx s = .next t) : Effect s (.rd idx) t := by
  unfold execRd at h
  split at h <;> cases h
  · exact .of_raise _
  · exact .answer (s.onlyEmits_respond _ _)

theorem execTick_effect {s t : State} (h : execTick s = .next t) : Effect s .tick t := by
  unfold execTick at h
  split at h <;> cases h
  · exact .of_raise _
  · rename_i hphase
    exact .tick hphase

theorem execDone_effect {s t : State} (h : execDone s = .next t) : Effect s .done t := by
  unfold execDone at h
  split at h
  · cases h
    exact .of_raise _
  · rename_i hphase
    split at h <;> cases h
    rename_i x hx
    exact .done hphase hx

/-- Every instruction that answers a next state had one of the listed effects. -/
theorem exec_effect {i : Instr} {s t : State} (h : exec i s = .next t) : Effect s i t := by
  cases i with
  | tick => exact execTick_effect h
  | regp idx a b | regpMs idx a b | reg1 idx a b | reg1Ms idx a b =>
    cases h
    exact s.register_effect _ _ _ _ _ fun k hk => State.target_index_eq_ok hk
  | regpAuto a b | regpMsAuto a b | reg1Auto a b | reg1MsAuto a b =>
    cases h
    exact s.register_effect _ _ _ _ _ fun k hk => State.target_auto_eq_ok hk
  | chgp idx a => exact execChgp_effect h
  | clrs idx => exact execClrs_effect h
  | free => exact execFree_effect h
  | pulse val idx a | pulseMs val idx a | pulseA val idx a | pulseMsA val idx a =>
    cases h
    exact s.pulse_effect _ _ _ _ _ rfl
  | pulsein val idx => exact execPulsein_effect h
  | isbusy idx => exact execIsbusy_effect h
  | clrp idx => exact execClrp_effect h
  | clrpF val idx => exact execClrpF_effect h
  | elapsed a b =>
    cases h
    exact .answer (s.onlyEmits_respond _ _)
  | rd idx => exact execRd_effect h
  | done => exact execDone_effect h

/-! ### The scans of a tick -/

/-- What any number of pin scans at tick time `now` may make of record `p`: `readingAt` and `targetValue` stay, a time that is
written is `now` or 0, and an idle record stays as it is (R205 to R208). -/
structure Pin.Scanned (now : Time) (p q : Pin) : Prop where
  readingAt : q.readingAt = p.readingAt
  targetValue : q.targetValue = p.targetValue
  firedAt : q.firedAt = p.firedAt ∨ q.firedAt = 0 ∨ q.firedAt = now
  idle : p.readingAt = 0 → p.firedAt = 0 → q = p

theorem Pin.Scanned.refl (now : Time) (p : Pin) : p.Scanned now p := ⟨rfl, rfl, .inl rfl, fun _ _ => rfl⟩

theorem Pin.Scanned.trans {now : Time} {p q r : Pin} (h : p.Scanned now q) (k : q.Scanned now r) : p.Scanned now r where
  readingAt := k.readingAt.trans h.readingAt
  targetValue := k.targetValue.trans h.targetValue
  firedAt := k.firedAt.elim (fun e => e ▸ h.firedAt) .inr
  idle hr hf := by
    obtain rfl := h.idle hr hf
    exact k.idle hr hf

theorem Pin.scanned_observe (now : Time) (r : Level) {p : Pin} (hp : p.readingAt ≠ 0) : p.Scanned now (p.observe now r) := by
  unfold Pin.observe
  split_ifs
  · exact ⟨rfl, rfl, .inr (.inr rfl), fun h => absurd h hp⟩
  · exact .refl now p
  · exact ⟨rfl, rfl, .inl rfl, fun h => absurd h hp⟩
  · exact .refl now p

theorem Pin.scanned_released (now : Time) {p : Pin} (hp : p.firedAt ≠ 0) :
    p.Scanned now { p with firedAt := 0, delay := 0 } :=
  ⟨rfl, rfl, .inr (.inl rfl), fun _ h => absurd h hp⟩

/-- Every record of `t` is the scanned one of `s`. -/
def State.PinsScannedTo (s t : State) : Prop :=
  ∀ (j : Nat) (p q : Pin), s.pins[j]? = some p → t.pins[j]? = some q → p.Scanned s.now q

theorem State.PinsScannedTo.of_pins_eq {s t : State} (h : t.pins = s.pins) : s.PinsScannedTo t := fun j p q hp hq => by
  obtain rfl : p = q := Option.some.inj (hp.symm.trans (h ▸ hq))
  exact .refl s.now p

theorem State.PinsScannedTo.of_pins_set {s t : State} {k : Nat} {p' q' : Pin} (h : t.pins = s.pins.set k q')
    (hp' : s.pins[k]? = some p') (hs : p'.Scanned s.now q') : s.PinsScannedTo t := fun j p q hp hq => by
  rw [h] at hq
  by_cases hjk : j = k
  · subst hjk
    obtain ⟨hlt, _⟩ := List.getElem?_eq_some_iff.1 hp
    obtain rfl : p' = p := Option.some.inj (hp'.symm.trans hp)
    obtain rfl : q' = q := by simpa [List.getElem?_set_self hlt] using hq
    exact hs
  · rw [List.getElem?_set_ne (Ne.symm hjk), hp] at hq
    exact Option.some.inj hq ▸ .refl s.now p

theorem State.pinsScannedTo_pinStep (s : State) (k : Nat) : s.PinsScannedTo (s.pinStep k) := by
  rcases s.pinStep_cases k with h | ⟨p, hp, hr, h⟩ | ⟨p, hp, _, hf, _, h⟩ <;> rw [h]
  · exact .of_pins_eq rfl
  · exact .of_pins_set (by simp) hp (Pin.scanned_observe s.now s.readReply hr)
  · exact .of_pins_set (by simp) hp (Pin.scanned_released s.now hf)

theorem State.pinStep_now (s : State) (k : Nat) : (s.pinStep k).now = s.now := by
  rcases s.pinStep_cases k with h | ⟨p, _, _, h⟩ | ⟨p, _, _, _, _, h⟩ <;> simp [h]

theorem State.pinStep_pins_length (s : State) (k : Nat) : (s.pinStep k).pins.length = s.pins.length := by
  rcases s.pinStep_cases k with h | ⟨p, _, _, h⟩ | ⟨p, _, _, _, _, h⟩ <;> simp [h]

theorem State.PinsScannedTo.trans {s t u : State} (h : s.PinsScannedTo t) (hnow : t.now = s.now)
    (hlen : t.pins.length = s.pins.length) (k : t.PinsScannedTo u) : s.PinsScannedTo u := fun j p q hp hq => by
  obtain ⟨hlt, _⟩ := List.getElem?_eq_some_iff.1 hp
  have hmid : t.pins[j]? = some t.pins[j] := List.getElem?_eq_getElem (hlen ▸ hlt)
  exact (h j p _ hp hmid).trans (hnow ▸ k j _ q hmid hq)

theorem State.pinsScannedTo_pinScan (s : State) : s.PinsScannedTo s.pinScan := by
  have h := s.pinScan_induction
    (fun t => s.PinsScannedTo t ∧ t.now = s.now ∧ t.pins.length = s.pins.length) ⟨.of_pins_eq rfl, rfl, rfl⟩
    fun t j ⟨hscan, hnow, hlen⟩ => ⟨hscan.trans hnow hlen (t.pinsScannedTo_pinStep j), (t.pinStep_now j).trans hnow,
      (t.pinStep_pins_length j).trans hlen⟩
  exact h.1

/-- What the rest of a tick may do, from `u` on which the slot scan starts at `start`: it dispatches at most one slot, or scans
the pins. -/
structure State.Advanced (start : Nat) (u t : State) : Prop where
  cfg : t.cfg = u.cfg
  now : t.now = u.now
  quantum : t.quantum = u.quantum
  clockIn : t.clockIn = u.clockIn
  /-- an entry stays, or fires (R196 to R199). -/
  slots : ∀ k x y, u.slots[k]? = some x → t.slots[k]? = some y → y = x ∨
    (start ≤ k ∧ x.fires u.mod u.now = true ∧ t.phase = .handler ∧ t.cur = BitVec.ofNat 16 k ∧
      y = { x with lastFired := u.now })
  pins : u.PinsScannedTo t
  /-- an outstanding handler is that of an entry (R41). -/
  handler : t.phase = .handler → ∃ k, k < u.slots.length ∧ t.cur = BitVec.ofNat 16 k

theorem State.dispatch_advanced {u : State} {start i : Nat} {x : Slot} (h : u.firstDue start = some (i, x)) :
    u.Advanced start (u.dispatch i x) := by
  obtain ⟨hstart, hx, hfires, _⟩ := (u.firstDue_eq_some start i x).1 h
  obtain ⟨hlt, _⟩ := List.getElem?_eq_some_iff.1 hx
  rw [u.dispatch_eq i x]
  refine ⟨by simp [State.cfg], rfl, rfl, rfl, fun k y z hy hz => ?_, .of_pins_eq rfl, fun _ => ⟨i, hlt, rfl⟩⟩
  by_cases hk : k = i
  · subst hk
    obtain rfl : x = y := Option.some.inj (hx.symm.trans hy)
    have hz : { x with lastFired := u.now } = z := by simpa [hlt] using hz
    exact .inr ⟨hstart, hfires, rfl, rfl, hz.symm⟩
  · simp only [List.getElem?_set_ne (Ne.symm hk), hy, Option.some.injEq] at hz
    exact .inl hz.symm

theorem State.endTick_advanced (u : State) (start : Nat) : u.Advanced start (u.pinScan.goIdle.respond .ok 0) := by
  obtain ⟨hslots, hnow, hquantum, _, _, hmod, htpm, _, hclock, hlen⟩ := u.pinScan_frame
  refine ⟨by simp [State.cfg, hslots, hmod, htpm, hlen], hnow, hquantum, hclock, fun k x y hx hy => .inl ?_,
    u.pinsScannedTo_pinScan, fun h => by simp at h⟩
  simpa [hslots, hx] using hy.symm

theorem State.advance_advanced (u : State) (start : Nat) : u.Advanced start (u.advance start) := by
  rcases u.advance_cases start with ⟨i, x, hdue, h⟩ | ⟨_, h⟩ <;> rw [h]
  · exact u.dispatch_advanced hdue
  · exact u.endTick_advanced start

/-! ### The states the slot scan starts from -/

section

variable (s : State)

@[simp] theorem State.sampled_slots : s.sampled.slots = s.slots := s.dropSample_slots
@[simp] theorem State.sampled_pins : s.sampled.pins = s.pins := s.dropSample_pins
@[simp] theorem State.sampled_phase : s.sampled.phase = s.phase := s.dropSample_phase
@[simp] theorem State.sampled_mod : s.sampled.mod = s.mod := s.dropSample_mod
@[simp] theorem State.sampled_tpm : s.sampled.tpm = s.tpm := s.dropSample_tpm
@[simp] theorem State.sampled_now : s.sampled.now = s.clockSample := rfl
@[simp] theorem State.sampled_quantum : s.sampled.quantum = elapsed s.mod s.now s.clockSample := by simp [State.sampled]
@[simp] theorem State.sampled_cfg : s.sampled.cfg = s.cfg := by simp [State.cfg]

end

/-- The return from a handler frees its slot if it is a one-shot, and leaves everything else. -/
theorem State.releaseOneShot_frame {s : State} {x : Slot} (hx : s.slots[s.cur.toNat]? = some x) :
    WritesSlot s.cur.toNat { x with occ := x.occ && x.rep } [] s (s.releaseOneShot x) := by
  obtain ⟨hlt, _⟩ := List.getElem?_eq_some_iff.1 hx
  exact State.writesSlot_of_eq hlt (by simp [s.releaseOneShot_eq x hx])

/-! ### The invariant -/

/-- The sample of the clock is a time (R96). -/
theorem State.clockSample_toNat_lt (s : State) (h0 : 0 < s.mod) : s.clockSample.toNat < s.mod := by
  unfold State.clockSample
  split <;> exact (BitVec.toNat_ofNat .. ▸ Nat.mod_le _ _).trans_lt (Nat.mod_lt _ h0)

/-- An elapsed time is a time (R110). -/
theorem elapsed_toNat_lt {mod : Nat} (h0 : 0 < mod) (h32 : mod ≤ 2 ^ 32) (a b : Time) : (elapsed mod a b).toNat < mod := by
  have hlo := Int.emod_nonneg ((b.toNat : Int) - a.toNat) (Int.natCast_ne_zero.2 h0.ne')
  have hhi := Int.emod_lt_of_pos ((b.toNat : Int) - a.toNat) (Int.natCast_pos.2 h0)
  rw [elapsed, BitVec.toNat_ofInt]
  omega

/-- With the configuration and the four scalars as they were, the invariant is that of the two tables. -/
theorem State.Inv.of_frame {s t : State} (hs : s.Inv) (hcfg : t.cfg = s.cfg) (hsc : SameScalars s t)
    (hslots : ∀ x ∈ t.slots, x.lastFired.toNat < s.mod)
    (hpins : ∀ p ∈ t.pins, p.firedAt.toNat < s.mod ∧ p.readingAt.toNat < s.mod) : t.Inv := by
  obtain ⟨hok, hnow, hquantum, _, _, hcur⟩ := hs
  obtain ⟨hn, hq, hph, hc⟩ := hsc
  have hmod : t.mod = s.mod := congrArg Config.Cfg.mod hcfg
  have hlen : t.slots.length = s.slots.length := congrArg Config.Cfg.n hcfg
  rw [State.Inv, hcfg, hmod, hlen, hn, hq, hph, hc]
  exact ⟨hok, hnow, hquantum, hslots, hpins, hcur⟩

theorem OnlyEmits.inv {evs : List Event} {s t : State} (h : OnlyEmits evs s t) (hs : s.Inv) : t.Inv := by
  have hcfg := h.cfg_eq
  obtain ⟨hslots, hpins, hsc, _⟩ := h
  obtain ⟨_, _, _, hlast, hpin, _⟩ := id hs
  exact hs.of_frame hcfg hsc (hslots ▸ hlast) (hpins ▸ hpin)

theorem WritesSlot.inv {i : Nat} {x : Slot} {evs : List Event} {s t : State} (h : WritesSlot i x evs s t) (hs : s.Inv)
    (hx : x.lastFired.toNat < s.mod) : t.Inv := by
  have hcfg := h.cfg_eq
  have hslots := h.slots_eq
  obtain ⟨_, _, hpins, hsc, _⟩ := h
  obtain ⟨_, _, _, hlast, hpin, _⟩ := id hs
  refine hs.of_frame hcfg hsc (fun z hz => ?_) (hpins ▸ hpin)
  rcases List.mem_or_eq_of_mem_set (hslots ▸ hz) with hz | rfl
  · exact hlast z hz
  · exact hx

theorem WritesPin.inv {j : Nat} {q : Pin} {evs : List Event} {s t : State} (h : WritesPin j q evs s t) (hs : s.Inv)
    (hq : q.firedAt.toNat < s.mod ∧ q.readingAt.toNat < s.mod) : t.Inv := by
  have hcfg := h.cfg_eq
  have hpins := h.pins_eq
  obtain ⟨_, _, hslots, hsc, _⟩ := h
  obtain ⟨_, _, _, hlast, hpin, _⟩ := id hs
  refine hs.of_frame hcfg hsc (hslots ▸ hlast) (fun r hr => ?_)
  rcases List.mem_or_eq_of_mem_set (hpins ▸ hr) with hr | rfl
  · exact hpin r hr
  · exact hq

/-- The state with a fresh clock sample, while no handler is outstanding. -/
theorem State.Inv.sampled {s : State} (hs : s.Inv) (hidle : s.phase = .idle) : s.sampled.Inv := by
  obtain ⟨hok, _, _, hlast, hpin, _⟩ := hs
  obtain ⟨_, _, ⟨hmod2, hmod32⟩, _⟩ := id hok
  have h0 : 0 < s.mod := Nat.lt_of_lt_of_le Nat.zero_lt_two hmod2
  have hnow := s.clockSample_toNat_lt h0
  have hquantum := elapsed_toNat_lt h0 hmod32 s.now s.clockSample
  simp only [State.Inv, State.sampled_cfg, State.sampled_now, State.sampled_quantum, State.sampled_mod, State.sampled_slots,
    State.sampled_pins, State.sampled_phase, hidle]
  exact ⟨hok, hnow, hquantum, hlast, hpin, fun h => nomatch h⟩

/-- An entry of a table of the same length stands where one stood before. -/
theorem exists_getElem?_of_mem {α : Type} {l l' : List α} (hlen : l'.length = l.length) {y : α} (hy : y ∈ l') :
    ∃ (k : Nat) (x : α), l[k]? = some x ∧ l'[k]? = some y := by
  obtain ⟨k, hk, rfl⟩ := List.mem_iff_getElem.1 hy
  exact ⟨k, l[k]'(hlen ▸ hk), List.getElem?_eq_getElem _, List.getElem?_eq_getElem _⟩

theorem Pin.Scanned.times_lt {now : Time} {p q : Pin} {mod : Nat} (h : p.Scanned now q) (hnow : now.toNat < mod)
    (hp : p.firedAt.toNat < mod ∧ p.readingAt.toNat < mod) : q.firedAt.toNat < mod ∧ q.readingAt.toNat < mod := by
  refine ⟨?_, h.readingAt ▸ hp.2⟩
  rcases h.firedAt with hf | hf | hf <;> rw [hf]
  · exact hp.1
  · exact Nat.zero_lt_of_lt hnow
  · exact hnow

/-- The rest of a tick keeps the invariant. -/
theorem State.Advanced.inv {start : Nat} {u t : State} (h : u.Advanced start t) (hu : u.Inv) : t.Inv := by
  obtain ⟨hok, hnow, hquantum, hlast, hpin, _⟩ := hu
  have hmod : t.mod = u.mod := congrArg Config.Cfg.mod h.cfg
  have hslots : t.slots.length = u.slots.length := congrArg Config.Cfg.n h.cfg
  have hpins : t.pins.length = u.pins.length := congrArg Config.Cfg.m h.cfg
  rw [State.Inv, h.cfg, hmod, hslots, h.now, h.quantum]
  refine ⟨hok, hnow, hquantum, fun y hy => ?_, fun q hq => ?_, fun hphase => ?_⟩
  · obtain ⟨k, x, hx, hy⟩ := exists_getElem?_of_mem hslots hy
    rcases h.slots k x y hx hy with rfl | ⟨_, _, _, _, rfl⟩
    · exact hlast _ (List.mem_of_getElem? hx)
    · exact hnow
  · obtain ⟨j, p, hp, hq⟩ := exists_getElem?_of_mem hpins hq
    exact (h.pins j p q hp hq).times_lt hnow (hpin p (List.mem_of_getElem? hp))
  · obtain ⟨k, hk, hcur⟩ := h.handler hphase
    rw [hcur, BitVec.toNat_ofNat]
    exact (Nat.mod_le _ _).trans_lt hk

/-- Every instruction keeps the invariant. -/
theorem Effect.inv {s t : State} {i : Instr} (h : Effect s i t) (hs : s.Inv) : t.Inv := by
  obtain ⟨hok, hnow, _, hlast, hpin, _⟩ := id hs
  have h0 : 0 < s.mod := Nat.zero_lt_of_lt hnow
  cases h with
  | answer hw => exact hw.inv hs
  | registration _ hw => exact hw.inv hs hnow
  | periodChange _ hw => exact hw.inv hs hnow
  | slotClear hx hw =>
    have hx := hlast _ (List.mem_of_getElem? hx)
    exact hw.inv hs hx
  | pulse _ hp hw => exact hw.inv hs ⟨hnow, (hpin _ (List.mem_of_getElem? hp)).2⟩
  | capture _ hw => exact hw.inv hs ⟨h0, hnow⟩
  | pinClear _ _ hw => exact hw.inv hs ⟨h0, h0⟩
  | tick hidle => exact (State.advance_advanced _ 0).inv (hs.sampled hidle)
  | done _ hx =>
    have hrelease := State.releaseOneShot_frame hx
    have hx := hlast _ (List.mem_of_getElem? hx)
    exact (State.advance_advanced _ _).inv (hrelease.inv hs hx)

/-- A step waited, ran an instruction, or answered an illegal word. -/
theorem step_effect {s t : State} (h : step s = .next t) :
    t = s.wait ∨ (∃ i, Effect s.accept i t) ∨ OnlyEmits [.resp .eIllegal 0] s.accept t := by
  by_cases hc : s.commands = []
  · have hstep : step s = .next s.wait := by simp [step, State.nextCommand, hc]
    exact .inl (Host.Outcome.next.inj (h.symm.trans hstep))
  · rcases step_next_cases hc h with ⟨i, hi⟩ | rfl
    · exact .inr (.inl ⟨i, exec_effect hi⟩)
    · exact .inr (.inr (s.accept.onlyEmits_raise .eIllegal))

/-- Settles O53: waiting and taking the word touch nothing the invariant speaks of; every effect keeps it. -/
theorem stepKeepsTheInvariant : Obligations.StepKeepsTheInvariant := by
  intro s t hs h
  have hwait : s.wait.Inv := hs
  have haccept : s.accept.Inv := hs
  rcases step_effect h with rfl | ⟨i, hi⟩ | hill
  · exact hwait
  · exact hi.inv haccept
  · exact hill.inv haccept

/-! ### The configuration -/

theorem Effect.cfg_eq {s t : State} {i : Instr} (h : Effect s i t) : t.cfg = s.cfg := by
  cases h with
  | answer hw => exact hw.cfg_eq
  | registration _ hw | periodChange _ hw | slotClear _ hw => exact hw.cfg_eq
  | pulse _ _ hw | capture _ hw | pinClear _ _ hw => exact hw.cfg_eq
  | tick _ => exact (State.advance_advanced _ 0).cfg.trans s.sampled_cfg
  | done _ hx => exact (State.advance_advanced _ _).cfg.trans (State.releaseOneShot_frame hx).cfg_eq

/-- Settles O55: neither the port nor any effect touches a table's size or a parameter. -/
theorem configurationNeverChanges : Obligations.ConfigurationNeverChanges := by
  intro s t h
  have haccept : s.accept.cfg = s.cfg := rfl
  rcases step_effect h with rfl | ⟨i, hi⟩ | hill
  · rfl
  · exact hi.cfg_eq.trans haccept
  · exact hill.cfg_eq.trans haccept

/-! ### Who moves the time -/

/-- What stays when an instruction leaves the tick alone: NOW, QUANTUM, PHASE and CUR, and the inputs of the environment. -/
theorem Effect.scalars_and_inputs {s t : State} {i : Instr} (h : Effect s i t) (ht : i ≠ .tick) (hd : i ≠ .done) :
    SameScalars s t ∧ SameInputs s t := by
  cases h with
  | answer hw =>
    obtain ⟨_, _, hsc, _, hin, _⟩ := hw
    exact ⟨hsc, hin⟩
  | registration _ hw | periodChange _ hw | slotClear _ hw =>
    obtain ⟨_, _, _, hsc, _, hin, _⟩ := hw
    exact ⟨hsc, hin⟩
  | pulse _ _ hw | capture _ hw | pinClear _ _ hw =>
    obtain ⟨_, _, _, hsc, _, hin, _⟩ := hw
    exact ⟨hsc, hin⟩
  | tick _ => exact absurd rfl ht
  | done _ _ => exact absurd rfl hd

/-- A DONE reads the tick time, it does not move it (R200, R202). -/
theorem Effect.done_keeps_time {s t : State} (h : Effect s .done t) :
    t.now = s.now ∧ t.quantum = s.quantum ∧ t.clockIn = s.clockIn := by
  cases h with
  | answer hw =>
    obtain ⟨_, _, ⟨hn, hq, _⟩, _, ⟨_, hc, _⟩, _⟩ := hw
    exact ⟨hn, hq, hc⟩
  | registration hk _ => exact hk.elim
  | pulse hj _ _ => exact hj.elim
  | capture hj _ => exact hj.elim
  | pinClear hj _ _ => exact hj.elim
  | @done x _ hx =>
    obtain ⟨_, _, _, ⟨hn, hq, _⟩, _, ⟨_, hc, _⟩, _⟩ := State.releaseOneShot_frame hx
    have hadv := (s.releaseOneShot x).advance_advanced (s.cur.toNat + 1)
    exact ⟨hadv.now.trans hn, hadv.quantum.trans hq, hadv.clockIn.trans hc⟩

/-- Settles O38: the frames of the instructions beside TICK and DONE, and DONE's own. -/
theorem onlyTheTickMovesTime : Obligations.OnlyTheTickMovesTime := by
  intro i s t h
  have heff := exec_effect h
  refine ⟨fun htick => ?_, fun htick hdone => ?_⟩
  · by_cases hdone : i = .done
    · subst hdone
      exact heff.done_keeps_time
    · obtain ⟨⟨hnow, hquantum, _⟩, ⟨_, hclock, _⟩⟩ := heff.scalars_and_inputs htick hdone
      exact ⟨hnow, hquantum, hclock⟩
  · obtain ⟨⟨_, _, hphase, hcur⟩, ⟨_, _, hread, hdraws⟩⟩ := heff.scalars_and_inputs htick hdone
    exact ⟨hphase, hcur, hread, hdraws⟩

/-! ### The access table of the slots (R29) -/

theorem Slot.fires_eq_true {mod : Nat} {now : Time} {x : Slot} :
    x.fires mod now = true ↔ x.occ = true ∧ x.period ≤ elapsed mod x.lastFired now := by
  simp [Slot.fires, due, BitVec.le_def]

/-- The slot scan after a return makes of slot `k` nothing, frees it as the one-shot that was handled, or fires it above CUR. -/
theorem State.release_slot_cases {s t : State} {x' : Slot} (hx' : s.slots[s.cur.toNat]? = some x')
    (hadv : (s.releaseOneShot x').Advanced (s.cur.toNat + 1) t) {k : Nat} {x y : Slot} (hx : s.slots[k]? = some x)
    (hy : t.slots[k]? = some y) :
    y = x ∨ (s.cur.toNat = k ∧ x.rep = false ∧ y = { x with occ := false }) ∨
      (x.fires s.mod s.now = true ∧ t.phase = .handler ∧ t.cur = BitVec.ofNat 16 k ∧ y = { x with lastFired := s.now }) := by
  have hrelease := State.releaseOneShot_frame hx'
  obtain ⟨hself, ⟨_, hother⟩, _, ⟨hnow, _⟩, ⟨hmod, _⟩, _⟩ := hrelease
  by_cases hk : k = s.cur.toNat
  · subst hk
    obtain rfl : x' = x := Option.some.inj (hx'.symm.trans hx)
    rcases hadv.slots _ _ y hself hy with rfl | ⟨habove, _⟩
    · cases hrep : x'.rep with
      | true => exact .inl (by cases x'; simp_all)
      | false => exact .inr (.inl ⟨rfl, rfl, by simp⟩)
    · omega
  · rcases hadv.slots k x y (hother k hk ▸ hx) hy with rfl | ⟨_, hfires, hphase, hcur, rfl⟩
    · exact .inl rfl
    · exact .inr (.inr ⟨hmod ▸ hnow ▸ hfires, hphase, hcur, by rw [hnow]⟩)

/-- What instruction `i`, from `s` to `t`, made of slot `k`, whose record was `x`: nothing, or what one of the writers of R29
writes. -/
inductive SlotChange (s t : State) (i : Instr) (k : Nat) (x : Slot) : Slot → Prop
  | kept : SlotChange s t i k x x
  | registered {y : Slot} : registersSlot s k i → y.occ = true → y.lastFired = t.now → SlotChange s t i k x y
  | periodChanged {idx : Idx} {a : Word} : i = .chgp idx a → idx.toNat = k →
      SlotChange s t i k x { x with period := a, lastFired := t.now }
  | cleared {idx : Idx} : i = .clrs idx → idx.toNat = k → SlotChange s t i k x { x with occ := false }
  | returned : i = .done → s.phase = .handler → s.cur.toNat = k → x.rep = false →
      SlotChange s t i k x { x with occ := false }
  | fired : firesSlot s t k x i → SlotChange s t i k x { x with lastFired := t.now }

theorem SlotChange.of_slots_eq {s t : State} {i : Instr} {k : Nat} {x y : Slot} (h : t.slots = s.slots)
    (hx : s.slots[k]? = some x) (hy : t.slots[k]? = some y) : SlotChange s t i k x y := by
  obtain rfl : y = x := Option.some.inj (hy.symm.trans (h ▸ hx))
  exact .kept

/-- Every entry of the slot table is what its writers made of it. -/
theorem Effect.slotChange {s t : State} {i : Instr} (h : Effect s i t) {k : Nat} {x y : Slot} (hx : s.slots[k]? = some x)
    (hy : t.slots[k]? = some y) : SlotChange s t i k x y := by
  cases h with
  | answer hw =>
    obtain ⟨hslots, _⟩ := hw
    exact .of_slots_eq hslots hx hy
  | registration hk hw =>
    obtain ⟨_, _, _, ⟨hnow, _⟩, _⟩ := id hw
    rcases hw.slots_getElem? hx hy with ⟨rfl, rfl⟩ | rfl
    · exact .registered hk rfl hnow.symm
    · exact .kept
  | periodChange hx' hw =>
    obtain ⟨_, _, _, ⟨hnow, _⟩, _⟩ := id hw
    rcases hw.slots_getElem? hx hy with ⟨rfl, rfl⟩ | rfl
    · obtain rfl := Option.some.inj (hx'.symm.trans hx)
      exact hnow ▸ .periodChanged rfl rfl
    · exact .kept
  | slotClear hx' hw =>
    rcases hw.slots_getElem? hx hy with ⟨rfl, rfl⟩ | rfl
    · obtain rfl := Option.some.inj (hx'.symm.trans hx)
      exact .cleared rfl rfl
    · exact .kept
  | pulse _ _ hw | capture _ hw | pinClear _ _ hw =>
    obtain ⟨_, _, hslots, _⟩ := hw
    exact .of_slots_eq hslots hx hy
  | tick _ =>
    have hadv := s.sampled.advance_advanced 0
    have hnow := hadv.now
    rcases hadv.slots k x y (by simpa using hx) hy with rfl | ⟨_, hfires, hphase, hcur, rfl⟩
    · exact .kept
    · obtain ⟨hocc, hdue⟩ := Slot.fires_eq_true.1 hfires
      rw [State.sampled_mod, ← hnow] at hdue
      exact hnow ▸ .fired ⟨.inl rfl, hocc, hdue, hphase, hcur⟩
  | @done x' hphase hx' =>
    have hadv := (s.releaseOneShot x').advance_advanced (s.cur.toNat + 1)
    obtain ⟨_, _, _, ⟨hnow, _⟩, _⟩ := State.releaseOneShot_frame hx'
    have hnow := hadv.now.trans hnow
    rcases State.release_slot_cases hx' hadv hx hy with rfl | ⟨hcur, hrep, rfl⟩ | ⟨hfires, hphase', hcur, rfl⟩
    · exact .kept
    · exact .returned rfl hphase hcur hrep
    · obtain ⟨hocc, hdue⟩ := Slot.fires_eq_true.1 hfires
      rw [← hnow] at hdue
      exact hnow ▸ .fired ⟨.inr rfl, hocc, hdue, hphase', hcur⟩

/-- Settles O28: each writer of a slot writes the fields of its row in R29 alone. -/
theorem slotFieldsAreWrittenOnlyAsListed : Obligations.SlotFieldsAreWrittenOnlyAsListed := by
  intro i s t k x y h hx hy
  cases (exec_effect h).slotChange hx hy with
  | kept => simp
  | registered hk hocc hlast => exact ⟨fun _ => .inl ⟨hk, hocc⟩, fun _ => hk, fun _ => .inl hk, fun _ => ⟨hlast, .inl hk⟩⟩
  | periodChanged hi hk =>
    exact ⟨by simp, by simp, fun _ => .inr ⟨_, _, hi, hk⟩, fun _ => ⟨rfl, .inr (.inl ⟨_, _, hi, hk⟩)⟩⟩
  | cleared hi hk => exact ⟨fun _ => .inr (.inl ⟨_, hi, hk, rfl⟩), by simp, by simp, by simp⟩
  | returned hi hphase hcur hrep => exact ⟨fun _ => .inr (.inr ⟨hi, hphase, hcur, hrep, rfl⟩), by simp, by simp, by simp⟩
  | fired hfires => exact ⟨by simp, by simp, by simp, fun _ => ⟨rfl, .inr (.inr hfires)⟩⟩

/-! ### The access table of the pins (R36) -/

/-- What instruction `i` made of the record `p` of pin `j`: nothing, or what one of the writers of R36 writes. -/
inductive PinChange (i : Instr) (j : Nat) (p : Pin) : Pin → Prop
  | kept : PinChange i j p p
  | pulsed {q : Pin} : pulsesPin j i → q.readingAt = p.readingAt → PinChange i j p q
  | captured {q : Pin} : capturesPin j i → PinChange i j p q
  | cleared {q : Pin} : clearsPin j i → q.targetValue = p.targetValue → PinChange i j p q
  | scanned {q : Pin} : i = .tick ∨ i = .done → p.readingAt ≠ 0 ∨ p.firedAt ≠ 0 → q.readingAt = p.readingAt →
      q.targetValue = p.targetValue → PinChange i j p q

theorem PinChange.of_pins_eq {s t : State} {i : Instr} {j : Nat} {p q : Pin} (h : t.pins = s.pins)
    (hp : s.pins[j]? = some p) (hq : t.pins[j]? = some q) : PinChange i j p q := by
  obtain rfl : q = p := Option.some.inj (hq.symm.trans (h ▸ hp))
  exact .kept

theorem Pin.Scanned.pinChange {now : Time} {i : Instr} {j : Nat} {p q : Pin} (h : p.Scanned now q)
    (hi : i = .tick ∨ i = .done) : PinChange i j p q := by
  by_cases hidle : p.readingAt = 0 ∧ p.firedAt = 0
  · obtain rfl := h.idle hidle.1 hidle.2
    exact .kept
  · exact .scanned hi (not_and_or.1 hidle) h.readingAt h.targetValue

/-- Every record of the pin table is what its writers made of it. -/
theorem Effect.pinChange {s t : State} {i : Instr} (h : Effect s i t) {j : Nat} {p q : Pin} (hp : s.pins[j]? = some p)
    (hq : t.pins[j]? = some q) : PinChange i j p q := by
  cases h with
  | answer hw =>
    obtain ⟨_, hpins, _⟩ := hw
    exact .of_pins_eq hpins hp hq
  | registration _ hw | periodChange _ hw | slotClear _ hw =>
    obtain ⟨_, _, hpins, _⟩ := hw
    exact .of_pins_eq hpins hp hq
  | pulse hj hp' hw =>
    rcases hw.pins_getElem? hp hq with ⟨rfl, rfl⟩ | rfl
    · obtain rfl := Option.some.inj (hp'.symm.trans hp)
      exact .pulsed hj rfl
    · exact .kept
  | capture hj hw =>
    rcases hw.pins_getElem? hp hq with ⟨rfl, rfl⟩ | rfl
    · exact .captured hj
    · exact .kept
  | pinClear hj hp' hw =>
    rcases hw.pins_getElem? hp hq with ⟨rfl, rfl⟩ | rfl
    · obtain rfl := Option.some.inj (hp'.symm.trans hp)
      exact .cleared hj rfl
    · exact .kept
  | tick _ => exact ((s.sampled.advance_advanced 0).pins j p q (by simpa using hp) hq).pinChange (.inl rfl)
  | @done x _ hx =>
    obtain ⟨_, _, hpins, _⟩ := State.releaseOneShot_frame hx
    exact (((s.releaseOneShot x).advance_advanced _).pins j p q (hpins ▸ hp) hq).pinChange (.inr rfl)

/-- Settles O34: each writer of a pin record writes the fields of its row in R36 alone. -/
theorem pinFieldsAreWrittenOnlyAsListed : Obligations.PinFieldsAreWrittenOnlyAsListed := by
  intro i s t j p q h hp hq
  cases (exec_effect h).pinChange hp hq with
  | kept => simp
  | pulsed hj hread => exact ⟨fun hne => absurd hread hne, fun _ => .inl hj, fun _ => .inl hj⟩
  | captured hj => exact ⟨fun _ => .inl hj, fun _ => .inr hj, fun _ => .inr (.inl hj)⟩
  | cleared hj htarget =>
    exact ⟨fun _ => .inr hj, fun hne => absurd htarget hne, fun _ => .inr (.inr (.inl hj))⟩
  | scanned hi hbusy hread htarget =>
    exact ⟨fun hne => absurd hread hne, fun hne => absurd htarget hne, fun _ => .inr (.inr (.inr ⟨hi, hbusy⟩))⟩

/-! ### Reset (R50) -/

/-- Settles O50: the two tables repeat one reset record each, the scalars are written out in `State.initial`. -/
theorem resetValues : Obligations.ResetValues := by
  intro c
  have hcfg : (State.initial c).cfg = c := by simp [State.initial, State.cfg]
  refine ⟨hcfg, fun x hx => ?_, fun p hp => ?_, rfl, rfl, rfl, rfl, rfl⟩
  · obtain rfl := List.eq_of_mem_replicate hx
    exact ⟨rfl, rfl, rfl, rfl, rfl⟩
  · obtain rfl := List.eq_of_mem_replicate hp
    exact ⟨rfl, rfl, rfl, rfl⟩

theorem State.initial_inv {c : Config.Cfg} (hc : c.Ok) : (State.initial c).Inv := by
  obtain ⟨hcfg, hslots, hpins, _⟩ := resetValues c
  obtain ⟨_, _, ⟨hmod, _⟩, _⟩ := id hc
  have h0 : (0 : Time).toNat < c.mod := Nat.zero_lt_of_lt hmod
  refine ⟨by rwa [hcfg], h0, h0, fun x hx => ?_, fun p hp => ?_, fun h => nomatch h⟩
  · obtain ⟨_, _, _, hlast, _⟩ := hslots x hx
    exact hlast ▸ h0
  · obtain ⟨hfired, hreading, _⟩ := hpins p hp
    exact ⟨hfired ▸ h0, hreading ▸ h0⟩

/-- No handler is outstanding after reset. -/
theorem State.initial_stamped (c : Config.Cfg) : (State.initial c).Stamped := fun h => nomatch h

/-- Settles O52: the reset values are times of every modulus, and `State.reset` is the reset state of a legal configuration. -/
theorem invariantHoldsAtReset : Obligations.InvariantHoldsAtReset := by
  have htest : Config.Cfg.test.Ok := by decide
  exact ⟨fun c hc => ⟨State.initial_inv hc, State.initial_stamped c⟩, State.initial_inv htest, State.initial_stamped _⟩

end Sys2Proof.Machine

end

/-! ## What no rule depends on: handler identifiers and QUANTUM (10_state.md R24, R39)

Replacing the identifiers by any function of them, and QUANTUM by any function of it, commutes with every instruction but RD.
Blanking the identifiers and setting QUANTUM are two such replacements. -/

section

namespace Sys2Proof.Machine

/-! ### Relabelling -/

def Slot.relabel (g : Word → Word) (x : Slot) : Slot := { x with hid := g x.hid }

def Event.relabel (g : Word → Word) : Event → Event
  | .dispatch i w => .dispatch i (g w)
  | e => e

/-- Every handler identifier, in the table and in the events, is replaced by its image under `g`, and QUANTUM by its image under
`h`. -/
def State.relabel (g : Word → Word) (h : Time → Time) (s : State) : State :=
  { s with slots := s.slots.map (Slot.relabel g), quantum := h s.quantum, out := s.out.map (Event.relabel g) }

/-- The identifiers an instruction carries, replaced. -/
def relabelInstr (g : Word → Word) : Instr → Instr
  | .regp idx a b => .regp idx a (g b)
  | .regpAuto a b => .regpAuto a (g b)
  | .regpMs idx a b => .regpMs idx a (g b)
  | .regpMsAuto a b => .regpMsAuto a (g b)
  | .reg1 idx a b => .reg1 idx a (g b)
  | .reg1Auto a b => .reg1Auto a (g b)
  | .reg1Ms idx a b => .reg1Ms idx a (g b)
  | .reg1MsAuto a b => .reg1MsAuto a (g b)
  | i => i

/-- An outcome with its next state, if it has one, replaced. -/
def mapNext (f : State → State) : Host.Outcome State Fault Refusal → Host.Outcome State Fault Refusal
  | .next t => .next (f t)
  | .fault r => .fault r
  | .refused r => .refused r

@[simp] theorem mapNext_next (f : State → State) (t : State) : mapNext f (.next t) = .next (f t) := rfl
@[simp] theorem mapNext_fault (f : State → State) (r : Fault) : mapNext f (.fault r) = .fault r := rfl

theorem mapNext_eq_next {f : State → State} {o : Host.Outcome State Fault Refusal} {u : State} (h : mapNext f o = .next u) :
    ∃ t, o = .next t ∧ f t = u := by
  cases o <;> cases h
  exact ⟨_, rfl, rfl⟩

section

variable (g : Word → Word) (h : Time → Time) (s : State)

/-! ### Fields and lookups -/

@[simp] theorem State.relabel_slots : (s.relabel g h).slots = s.slots.map (Slot.relabel g) := rfl
@[simp] theorem State.relabel_pins : (s.relabel g h).pins = s.pins := rfl
@[simp] theorem State.relabel_now : (s.relabel g h).now = s.now := rfl
@[simp] theorem State.relabel_phase : (s.relabel g h).phase = s.phase := rfl
@[simp] theorem State.relabel_cur : (s.relabel g h).cur = s.cur := rfl
@[simp] theorem State.relabel_mod : (s.relabel g h).mod = s.mod := rfl
@[simp] theorem State.relabel_tpm : (s.relabel g h).tpm = s.tpm := rfl
@[simp] theorem State.relabel_cfg : (s.relabel g h).cfg = s.cfg := by simp [State.cfg]
@[simp] theorem State.relabel_clockSample : (s.relabel g h).clockSample = s.clockSample := rfl
@[simp] theorem State.relabel_readReply : (s.relabel g h).readReply = s.readReply := rfl
@[simp] theorem State.relabel_duration (ms : Bool) (a : Word) : (s.relabel g h).duration ms a = s.duration ms a := rfl
@[simp] theorem State.relabel_pinAt (idx : Idx) : (s.relabel g h).pinAt idx = s.pinAt idx := rfl

@[simp] theorem Event.relabel_clock (t : Time) : (Event.clock t).relabel g = .clock t := rfl
@[simp] theorem Event.relabel_ioSetOutput (p : Idx) : (Event.ioSetOutput p).relabel g = .ioSetOutput p := rfl
@[simp] theorem Event.relabel_ioSetInput (p : Idx) : (Event.ioSetInput p).relabel g = .ioSetInput p := rfl
@[simp] theorem Event.relabel_ioWrite (p : Idx) (l : Level) : (Event.ioWrite p l).relabel g = .ioWrite p l := rfl
@[simp] theorem Event.relabel_ioRead (p : Idx) (r : Level) : (Event.ioRead p r).relabel g = .ioRead p r := rfl
@[simp] theorem Event.relabel_dispatch (i : Idx) (w : Word) : (Event.dispatch i w).relabel g = .dispatch i (g w) := rfl
@[simp] theorem Event.relabel_assertEvent (an : Bool) (idx : Idx) (val : Val) :
    (assertEvent an idx val).relabel g = assertEvent an idx val := by
  cases an <;> rfl

@[simp] theorem Slot.relabel_rep (x : Slot) : (x.relabel g).rep = x.rep := rfl

@[simp] theorem State.relabel_slotAt (idx : Idx) : (s.relabel g h).slotAt idx = (s.slotAt idx).map (Slot.relabel g) := by
  unfold State.slotAt
  split <;> simp_all

/-- A scan whose test does not look at the identifier finds the same slot. -/
theorem firstFrom_relabel {f : Slot → Bool} (hf : ∀ x, f (x.relabel g) = f x) (l : List Slot) (i : Nat) :
    firstFrom f (l.map (Slot.relabel g)) i = (firstFrom f l i).map fun r => (r.1, r.2.relabel g) := by
  induction l generalizing i with
  | nil => rfl
  | cons x xs ih =>
    simp only [List.map_cons, firstFrom, hf]
    split
    · rfl
    · exact ih (i + 1)

@[simp] theorem State.relabel_firstFree : (s.relabel g h).firstFree = s.firstFree := by
  have hfree : ∀ x : Slot, (x.relabel g).free = x.free := fun _ => rfl
  simp [State.firstFree, firstFrom_relabel g hfree, Option.map_map, Function.comp_def]

@[simp] theorem State.relabel_firstDue (start : Nat) :
    (s.relabel g h).firstDue start = (s.firstDue start).map fun r => (r.1, r.2.relabel g) := by
  have hfires : ∀ x : Slot, (x.relabel g).fires s.mod s.now = x.fires s.mod s.now := fun _ => rfl
  simp [State.firstDue, ← List.map_drop, firstFrom_relabel g hfires]

@[simp] theorem State.relabel_target (sel : Option Idx) : (s.relabel g h).target sel = s.target sel := by
  cases sel <;> simp [State.target]

/-! ### Operations -/

@[simp] theorem State.relabel_emit (e : Event) : (s.emit e).relabel g h = (s.relabel g h).emit (e.relabel g) := by
  simp [State.relabel, State.emit]

@[simp] theorem State.relabel_respond (st : Status) (v : Word) :
    (s.respond st v).relabel g h = (s.relabel g h).respond st v :=
  s.relabel_emit g h (.resp st v)

@[simp] theorem State.relabel_raise (st : Status) : (s.raise st).relabel g h = (s.relabel g h).raise st :=
  s.relabel_respond g h st 0

@[simp] theorem State.relabel_setSlot (i : Nat) (x : Slot) :
    (s.setSlot i x).relabel g h = (s.relabel g h).setSlot i (x.relabel g) := by
  simp [State.relabel, State.setSlot, List.map_set]

@[simp] theorem State.relabel_setPin (j : Nat) (p : Pin) : (s.setPin j p).relabel g h = (s.relabel g h).setPin j p := rfl

@[simp] theorem State.relabel_suspend (i : Nat) : (s.suspend i).relabel g h = (s.relabel g h).suspend i := rfl

@[simp] theorem State.relabel_goIdle : s.goIdle.relabel g h = (s.relabel g h).goIdle := rfl

@[simp] theorem State.relabel_dropReply : s.dropReply.relabel g h = (s.relabel g h).dropReply := by
  obtain ⟨slots, pins, now, quantum, phase, cur, mod, tpm, commands, clockIn, readIn, draws, out⟩ := s
  cases readIn <;> rfl

@[simp] theorem State.relabel_dropSample : s.dropSample.relabel g h = (s.relabel g h).dropSample := by
  obtain ⟨slots, pins, now, quantum, phase, cur, mod, tpm, commands, clockIn, readIn, draws, out⟩ := s
  cases clockIn <;> rfl

/-- An accepted TICK writes QUANTUM from NOW and the sample, whatever it was (R191). -/
theorem State.relabel_sampled : s.sampled.relabel g id = (s.relabel g h).sampled := by
  have hset : ∀ (u : State) (t : Time), (u.setTime t).relabel g id = (u.relabel g h).setTime t := fun _ _ => rfl
  simp [State.sampled, hset]

@[simp] theorem State.relabel_register (rep ms : Bool) (sel : Option Idx) (a b : Word) :
    (s.register rep ms sel a b).relabel g h = (s.relabel g h).register rep ms sel a (g b) := by
  unfold State.register
  rw [State.relabel_target]
  split <;> simp [Slot.relabel]

@[simp] theorem State.relabel_pulse (ms an : Bool) (val : Val) (idx : Idx) (a : Word) :
    (s.pulse ms an val idx a).relabel g h = (s.relabel g h).pulse ms an val idx a := by
  unfold State.pulse
  rw [State.relabel_pinAt]
  split <;> simp

/-! ### The scans -/

theorem State.relabel_captureStep (j : Nat) (p : Pin) :
    (s.captureStep j p).relabel g h = (s.relabel g h).captureStep j p := by
  simp [State.captureStep]

theorem State.relabel_pulseStep (j : Nat) (p : Pin) : (s.pulseStep j p).relabel g h = (s.relabel g h).pulseStep j p := by
  by_cases hd : due s.mod p.firedAt s.now p.delay = true <;> simp [State.pulseStep, hd]

theorem State.relabel_pinStep (j : Nat) : (s.pinStep j).relabel g h = (s.relabel g h).pinStep j := by
  unfold State.pinStep
  rw [State.relabel_pins]
  split
  · rfl
  · split_ifs
    · exact s.relabel_captureStep g h j _
    · exact s.relabel_pulseStep g h j _
    · rfl

@[simp] theorem State.relabel_pinScan : s.pinScan.relabel g h = (s.relabel g h).pinScan := by
  unfold State.pinScan
  rw [State.relabel_cfg]
  exact (List.foldl_hom (State.relabel g h) fun t j => (t.relabel_pinStep g h j).symm).symm

@[simp] theorem State.relabel_dispatch (i : Nat) (x : Slot) :
    (s.dispatch i x).relabel g h = (s.relabel g h).dispatch i (x.relabel g) := by
  simp [State.dispatch, Slot.relabel]

@[simp] theorem State.relabel_advance (start : Nat) : (s.advance start).relabel g h = (s.relabel g h).advance start := by
  unfold State.advance
  rw [State.relabel_firstDue]
  cases s.firstDue start <;> simp

@[simp] theorem State.relabel_releaseOneShot (x : Slot) :
    (s.releaseOneShot x).relabel g h = (s.relabel g h).releaseOneShot (x.relabel g) := by
  by_cases hr : x.rep = true <;> simp [State.releaseOneShot, Slot.relabel, hr]

/-! ### Each instruction -/

theorem execTick_relabel : ∃ h', (h' = h ∨ h' = id) ∧
    execTick (s.relabel g h) = mapNext (State.relabel g h') (execTick s) := by
  unfold execTick
  rw [State.relabel_phase]
  split
  · exact ⟨h, .inl rfl, by simp⟩
  · refine ⟨id, .inr rfl, ?_⟩
    change Host.Outcome.next ((s.relabel g h).sampled.advance 0) = .next ((s.sampled.advance 0).relabel g id)
    rw [State.relabel_advance, s.relabel_sampled g h]

theorem execDone_relabel : execDone (s.relabel g h) = mapNext (State.relabel g h) (execDone s) := by
  unfold execDone
  simp only [State.relabel_phase, State.relabel_slots, State.relabel_cur, List.getElem?_map]
  split
  · simp
  · cases s.slots[s.cur.toNat]? <;> simp

theorem execChgp_relabel (idx : Idx) (a : Word) :
    execChgp idx a (s.relabel g h) = mapNext (State.relabel g h) (execChgp idx a s) := by
  unfold execChgp
  rw [State.relabel_slotAt]
  cases s.slotAt idx <;> simp [Slot.relabel]

theorem execClrs_relabel (idx : Idx) : execClrs idx (s.relabel g h) = mapNext (State.relabel g h) (execClrs idx s) := by
  unfold execClrs
  rw [State.relabel_slotAt]
  cases s.slotAt idx <;> simp [Slot.relabel]

theorem execFree_relabel : execFree (s.relabel g h) = mapNext (State.relabel g h) (execFree s) := by
  unfold execFree
  rw [State.relabel_firstFree]
  cases s.firstFree <;> simp

theorem execPulsein_relabel (val : Val) (idx : Idx) :
    execPulsein val idx (s.relabel g h) = mapNext (State.relabel g h) (execPulsein val idx s) := by
  unfold execPulsein
  rw [State.relabel_pinAt]
  cases s.pinAt idx <;> simp

theorem execIsbusy_relabel (idx : Idx) :
    execIsbusy idx (s.relabel g h) = mapNext (State.relabel g h) (execIsbusy idx s) := by
  unfold execIsbusy
  rw [State.relabel_pinAt]
  cases s.pinAt idx <;> simp

theorem execClrp_relabel (idx : Idx) : execClrp idx (s.relabel g h) = mapNext (State.relabel g h) (execClrp idx s) := by
  unfold execClrp
  rw [State.relabel_pinAt]
  cases s.pinAt idx <;> simp

theorem execClrpF_relabel (val : Val) (idx : Idx) :
    execClrpF val idx (s.relabel g h) = mapNext (State.relabel g h) (execClrpF val idx s) := by
  unfold execClrpF
  rw [State.relabel_pinAt]
  cases s.pinAt idx <;> simp

/-- Every instruction but RD commutes with a relabelling; only an accepted TICK, which writes QUANTUM itself, leaves it as it
comes. -/
theorem exec_relabel {i : Instr} (hrd : ∀ a, i ≠ .rd a) : ∃ h', (h' = h ∨ h' = id) ∧
    exec (relabelInstr g i) (s.relabel g h) = mapNext (State.relabel g h') (exec i s) := by
  by_cases htick : i = .tick
  · subst htick
    exact execTick_relabel g h s
  refine ⟨h, .inl rfl, ?_⟩
  cases i with
  | tick => exact absurd rfl htick
  | regp idx a b | regpAuto a b | regpMs idx a b | regpMsAuto a b
  | reg1 idx a b | reg1Auto a b | reg1Ms idx a b | reg1MsAuto a b =>
    exact congrArg Host.Outcome.next (s.relabel_register g h _ _ _ _ _).symm
  | chgp idx a => exact execChgp_relabel g h s idx a
  | clrs idx => exact execClrs_relabel g h s idx
  | free => exact execFree_relabel g h s
  | pulse val idx a | pulseMs val idx a | pulseA val idx a | pulseMsA val idx a =>
    exact congrArg Host.Outcome.next (s.relabel_pulse g h _ _ _ _ _).symm
  | pulsein val idx => exact execPulsein_relabel g h s val idx
  | isbusy idx => exact execIsbusy_relabel g h s idx
  | clrp idx => exact execClrp_relabel g h s idx
  | clrpF val idx => exact execClrpF_relabel g h s val idx
  | elapsed a b => exact congrArg Host.Outcome.next (s.relabel_respond g h _ _).symm
  | rd idx => exact absurd rfl (hrd idx)
  | done => exact execDone_relabel g h s

end

/-! ### The two relabellings of the obligations -/

/-- Blanking the identifiers is a relabelling (R24). -/
theorem State.blankHids_eq_relabel (s : State) : s.blankHids = s.relabel (fun _ => 0) id := by
  have hout : s.blankHids.out = s.out.map (Event.relabel fun _ => 0) :=
    List.map_congr_left fun e _ => by cases e <;> rfl
  calc s.blankHids = { s.relabel (fun _ => 0) id with out := s.blankHids.out } := rfl
    _ = s.relabel (fun _ => 0) id := by rw [hout]; rfl

/-- A relabelling that keeps the identifiers sets QUANTUM alone (R39). -/
theorem State.relabel_id_eq (s : State) (h : Time → Time) : s.relabel id h = { s with quantum := h s.quantum } := by
  have hslot : Slot.relabel id = id := rfl
  have hevent : Event.relabel id = id := funext fun e => by cases e <;> rfl
  simp [State.relabel, hslot, hevent]

theorem relabelInstr_id (i : Instr) : relabelInstr id i = i := by
  cases i <;> rfl

/-- Settles O58: both runs are the run on the blanked state, with the identifiers of its outcome put back. -/
theorem handlerIdentifiersAreOpaque : Obligations.HandlerIdentifiersAreOpaque := by
  intro i s s' hrd hblank t ht
  simp only [State.blankHids_eq_relabel] at hblank ⊢
  have hrun : ∀ u : State, exec (relabelInstr (fun _ => 0) i) (u.relabel (fun _ => 0) id) =
      mapNext (State.relabel (fun _ => 0) id) (exec i u) := fun u => by
    obtain ⟨h', rfl | rfl, hu⟩ := exec_relabel (fun _ => 0) id u hrd <;> exact hu
  have h : mapNext (State.relabel (fun _ => 0) id) (exec i s') = .next (t.relabel (fun _ => 0) id) := by
    rw [← hrun s', ← hblank, hrun s, ht, mapNext_next]
  obtain ⟨t', ht', hrel⟩ := mapNext_eq_next h
  exact ⟨t', ht', hrel.symm⟩

/-- Settles O59: the run from the other QUANTUM is the relabelled run, whose outcome differs in QUANTUM at most. -/
theorem quantumInfluencesNothing : Obligations.QuantumInfluencesNothing := by
  intro i s t q hrd ht
  obtain ⟨h', _, hrun⟩ := exec_relabel id (fun _ => q) s hrd
  rw [relabelInstr_id, ht, mapNext_next, State.relabel_id_eq, State.relabel_id_eq] at hrun
  exact ⟨_, hrun, rfl⟩

end Sys2Proof.Machine

end

/-! ## The register space (20_memory.md R60 to R64)

A register is mapped when its table has the entry, and the map gives a register at an address exactly when it is a mapped one with
that address. What RD answers and refuses, and that no two registers share an address, follow from this. -/

section

namespace Sys2Proof.Machine

/-! ### The registers of the map -/

/-- The register is one of the map of R63 for `n` slots and `m` pins: the table it belongs to has its entry. -/
def RegName.Mapped (n m : Nat) : RegName → Prop
  | .now | .quantum | .phase | .cur => True
  | .slotOcc i | .slotHid i | .slotPeriod i | .slotLastFired i | .slotRepeat i => i < n
  | .pinFiredAt j | .pinReadingAt j | .pinDelay j | .pinTargetValue j => j < m

/-- A register has a value exactly when it is mapped (R62). -/
theorem State.regValue_isSome_iff (s : State) (r : RegName) : (s.regValue r).isSome ↔ r.Mapped s.cfg.n s.cfg.m := by
  cases r <;> simp [State.regValue, RegName.Mapped, State.cfg]

theorem State.mapped_of_regValue {s : State} {r : RegName} {v : Word} (h : s.regValue r = some v) :
    r.Mapped s.cfg.n s.cfg.m :=
  (s.regValue_isSome_iff r).1 (Option.isSome_of_eq_some h)

theorem RegName.address_lt {n m : Nat} {r : RegName} (hn : n ≤ 256) (hm : m ≤ 256) (h : r.Mapped n m) :
    r.address < 2 ^ 16 := by
  cases r <;> simp only [RegName.Mapped] at h <;> simp only [RegName.address] <;> omega

/-! ### The map, region by region -/

theorem slotReg_eq_some {n m i k : Nat} {r : RegName} (h : slotReg i k = some r) (hi : i < n) :
    r.Mapped n m ∧ r.address = 0x0100 + 8 * i + k := by
  unfold slotReg at h
  split at h <;> cases h <;> exact ⟨hi, rfl⟩

theorem pinReg_eq_some {n m j k : Nat} {r : RegName} (h : pinReg j k = some r) (hj : j < m) :
    r.Mapped n m ∧ r.address = 0x1000 + 4 * j + k := by
  unfold pinReg at h
  split at h <;> cases h <;> exact ⟨hj, rfl⟩

/-- The slot region: eight addresses for each slot. -/
theorem regAt_slot {n m i k : Nat} (hn : n ≤ 256) (hi : i < n) (hk : k < 8) :
    regAt n m (0x0100 + 8 * i + k) = slotReg i k := by
  have hdiv : (0x0100 + 8 * i + k - 0x0100) / 8 = i := by omega
  have hmod : (0x0100 + 8 * i + k - 0x0100) % 8 = k := by omega
  unfold regAt
  rw [if_neg (by omega), if_pos (by omega), if_pos (by omega), hdiv, hmod]

/-- The pin region: four addresses for each pin. -/
theorem regAt_pin {n m j k : Nat} (hj : j < m) (hk : k < 4) : regAt n m (0x1000 + 4 * j + k) = pinReg j k := by
  have hdiv : (0x1000 + 4 * j + k - 0x1000) / 4 = j := by omega
  have hmod : (0x1000 + 4 * j + k - 0x1000) % 4 = k := by omega
  unfold regAt
  rw [if_neg (by omega), if_neg (by omega), if_pos (by omega), hdiv, hmod]

/-! ### The map as a whole -/

/-- The map finds every mapped register at its address. -/
theorem regAt_address {n m : Nat} {r : RegName} (hn : n ≤ 256) (h : r.Mapped n m) : regAt n m r.address = some r := by
  cases r with
  | now | quantum | phase | cur => rfl
  | slotOcc i | slotHid i | slotPeriod i | slotLastFired i | slotRepeat i => exact regAt_slot hn h (by decide)
  | pinFiredAt j | pinReadingAt j | pinDelay j | pinTargetValue j => exact regAt_pin h (by decide)

/-- What the map gives at an address is a mapped register with that address. -/
theorem mapped_of_regAt {n m a : Nat} {r : RegName} (h : regAt n m a = some r) : r.Mapped n m ∧ r.address = a := by
  unfold regAt at h
  split_ifs at h
  · split at h <;> cases h <;> exact ⟨trivial, rfl⟩
  · obtain ⟨hr, ha⟩ := slotReg_eq_some (n := n) (m := m) h (by omega)
    exact ⟨hr, by omega⟩
  · obtain ⟨hr, ha⟩ := pinReg_eq_some (n := n) (m := m) h (by omega)
    exact ⟨hr, by omega⟩

/-- No two mapped registers share an address: the map, a function, gives both there. -/
theorem RegName.eq_of_address_eq {n m : Nat} {r r' : RegName} (hn : n ≤ 256) (hr : r.Mapped n m) (hr' : r'.Mapped n m)
    (h : r'.address = r.address) : r' = r := by
  have hat : regAt n m r.address = some r' := h ▸ regAt_address hn hr'
  exact Option.some.inj (hat.symm.trans (regAt_address hn hr))

/-- An address that no mapped register has is unmapped. -/
theorem regAt_eq_none {n m a : Nat} (h : ∀ r : RegName, r.Mapped n m → r.address ≠ a) : regAt n m a = none :=
  Option.eq_none_iff_forall_ne_some.2 fun r hr =>
    have ⟨hmapped, ha⟩ := mapped_of_regAt hr
    h r hmapped ha

/-- The unmapped addresses that R63 lists are the address of no register. -/
theorem RegName.address_ne_hole {n m a : Nat} {r : RegName} (hn : n ≤ 256) (hr : r.Mapped n m)
    (ha : (0x0004 ≤ a ∧ a ≤ 0x00FF) ∨ (0x0100 ≤ a ∧ a ≤ 0x0FFF ∧ 5 ≤ a % 8) ∨
      (0x0100 + 8 * n ≤ a ∧ a ≤ 0x0FFF) ∨ 0x1000 + 4 * m ≤ a) : r.address ≠ a := by
  cases r <;> simp only [RegName.Mapped] at hr <;> simp only [RegName.address] <;> omega

/-! ### What RD does -/

theorem State.exec_rd_of_some {s : State} {a : Idx} {v : Word} (h : s.regRead a = some v) :
    exec (.rd a) s = .next (s.respond .ok v) := by
  simp [exec, execRd, h]

theorem State.exec_rd_of_none {s : State} {a : Idx} (h : s.regRead a = none) : exec (.rd a) s = .next (s.raise .eIndex) := by
  simp [exec, execRd, h]

/-- RD of a register's address reads the register. -/
theorem State.regRead_address {s : State} {r : RegName} {v : Word} (hok : s.cfg.Ok) (h : s.regValue r = some v) :
    s.regRead (BitVec.ofNat 16 r.address) = some v := by
  obtain ⟨⟨_, hn⟩, ⟨_, hm⟩, _⟩ := hok
  have hr := State.mapped_of_regValue h
  have haddr : (BitVec.ofNat 16 r.address).toNat = r.address := by
    rw [BitVec.toNat_ofNat, Nat.mod_eq_of_lt (RegName.address_lt hn hm hr)]
  rw [State.regRead, haddr, regAt_address hn hr, Option.bind_some, h]

theorem State.regRead_unmapped {s : State} {a : Idx} (h : regAt s.cfg.n s.cfg.m a.toNat = none) : s.regRead a = none := by
  rw [State.regRead, h, Option.bind_none]

/-! ### The values narrower than a word (R60) -/

theorem zeroExtend_ofBool (b : Bool) : (BitVec.ofBool b).zeroExtend 32 = if b then 1 else 0 := by
  cases b <;> rfl

theorem Phase.zeroExtend_bit (p : Phase) : p.bit.zeroExtend 32 = if p = .handler then 1 else 0 := by
  cases p <;> rfl

/-! ### The obligations -/

/-- Settles O47: each register of the tables has the value the map gives it, and RD reads it at its address. -/
theorem readMappedRegister : Obligations.ReadMappedRegister := by
  intro s hok Reads
  have reads : ∀ r v, s.regValue r = some v → Reads r.address v := fun r v hv =>
    ⟨_, State.exec_rd_of_some (State.regRead_address hok hv), s.onlyEmits_respond .ok v⟩
  have hphase : s.regValue .phase = some (if s.phase = .handler then 1 else 0) :=
    congrArg some s.phase.zeroExtend_bit
  refine ⟨reads .now _ rfl, reads .quantum _ rfl, reads .phase _ hphase, reads .cur _ rfl, fun i x hx => ?_, fun j p hp => ?_⟩
  · have hocc : s.regValue (.slotOcc i) = some (if x.occ then 1 else 0) := by
      simp only [State.regValue, hx, Option.map_some, zeroExtend_ofBool]
    have hrep : s.regValue (.slotRepeat i) = some (if x.rep then 1 else 0) := by
      simp only [State.regValue, hx, Option.map_some, zeroExtend_ofBool]
    exact ⟨reads (.slotOcc i) _ hocc, reads (.slotHid i) _ (by simp [State.regValue, hx]),
      reads (.slotPeriod i) _ (by simp [State.regValue, hx]), reads (.slotLastFired i) _ (by simp [State.regValue, hx]),
      reads (.slotRepeat i) _ hrep⟩
  · exact ⟨reads (.pinFiredAt j) _ (by simp [State.regValue, hp]), reads (.pinReadingAt j) _ (by simp [State.regValue, hp]),
      reads (.pinDelay j) _ (by simp [State.regValue, hp]), reads (.pinTargetValue j) _ (by simp [State.regValue, hp])⟩

/-- Settles O48: no register has the address, so RD finds none there. -/
theorem readUnmappedAddressFails : Obligations.ReadUnmappedAddressFails := by
  intro s a ⟨⟨_, hn⟩, _⟩ ha
  have hnone : regAt s.cfg.n s.cfg.m a.toNat = none := regAt_eq_none fun _ hr => RegName.address_ne_hole hn hr ha
  exact ⟨_, State.exec_rd_of_none (State.regRead_unmapped hnone), s.onlyEmits_raise .eIndex⟩

/-- Settles O49: a register with a value is mapped, and mapped registers have their own addresses below 2^16. -/
theorem registerMapIsOneToOne : Obligations.RegisterMapIsOneToOne := by
  intro s ⟨⟨_, hn⟩, ⟨_, hm⟩, _⟩ r v hv
  have hr := State.mapped_of_regValue hv
  exact ⟨RegName.address_lt hn hm hr, regAt_address hn hr,
    fun r' v' hv' haddr => RegName.eq_of_address_eq hn hr (State.mapped_of_regValue hv') haddr⟩

end Sys2Proof.Machine

end

/-! ## Encoding and decoding (30_encoding.md R80 to R87)

A word is its fields, and a row of the opcode map is a layout of them: the decoder answers the row's instruction exactly when the
fields fit the layout, and the row's mask and match test the same. -/

section

namespace Sys2Proof

/-! ### The word and its fields (R80, R81) -/

theorem ofBool_getLsbD {n : Nat} (x : BitVec n) (k : Nat) : BitVec.ofBool (x.getLsbD k) = x.extractLsb' k 1 := by
  ext i hi
  obtain rfl : i = 0 := by omega
  simp

/-- Packing loses no field. -/
@[simp] theorem Fields.fields_pack (f : Fields) : f.pack.fields = f := by
  obtain ⟨op, ms, auto, an, force, val, idx, a, b⟩ := f
  simp only [Command.fields, Fields.pack, Fields.header, Fields.mk.injEq, BitVec.getLsbD_append]
  refine ⟨?op, by simp, by simp, by simp, by simp, ?val, ?idx, ?a, ?b⟩
  all_goals repeat rw [BitVec.extractLsb'_append_eq_of_le (by omega)]
  case op => exact BitVec.extractLsb'_eq_self
  all_goals exact BitVec.extractLsb'_append_eq_right

/-- The fields cover the word. -/
@[simp] theorem Fields.pack_fields (w : Command) : w.fields.pack = w := by
  simp only [Fields.pack, Fields.header, Command.fields, ofBool_getLsbD]
  repeat rw [BitVec.extractLsb'_append_extractLsb'_eq_extractLsb' (by omega)]
  exact BitVec.extractLsb'_eq_self

theorem Fields.pack_inj {f g : Fields} : f.pack = g.pack ↔ f = g :=
  ⟨fun h => by rw [← f.fields_pack, h, g.fields_pack], congrArg _⟩

/-! ### The layouts of the rows (R83, R84) -/

/-- What a row of R83 says of the fields: the opcode, the flags that are one, and the operand fields it uses. -/
structure Layout where
  op : BitVec 4
  ms : Bool := false
  auto : Bool := false
  an : Bool := false
  force : Bool := false
  val : ValKind := .zero
  useIdx : Bool := false
  useA : Bool := false
  useB : Bool := false

def Mnemonic.layout : Mnemonic → Layout
  | .TICK => { op := 0x1 }
  | .REGP => { op := 0x2, useIdx := true, useA := true, useB := true }
  | .REGP_AUTO => { op := 0x2, auto := true, useA := true, useB := true }
  | .REGP_MS => { op := 0x2, ms := true, useIdx := true, useA := true, useB := true }
  | .REGP_MS_AUTO => { op := 0x2, ms := true, auto := true, useA := true, useB := true }
  | .REG1 => { op := 0x3, useIdx := true, useA := true, useB := true }
  | .REG1_AUTO => { op := 0x3, auto := true, useA := true, useB := true }
  | .REG1_MS => { op := 0x3, ms := true, useIdx := true, useA := true, useB := true }
  | .REG1_MS_AUTO => { op := 0x3, ms := true, auto := true, useA := true, useB := true }
  | .CHGP => { op := 0x4, useIdx := true, useA := true }
  | .CLRS => { op := 0x5, useIdx := true }
  | .FREE => { op := 0x6 }
  | .PULSE => { op := 0x7, val := .level, useIdx := true, useA := true }
  | .PULSE_MS => { op := 0x7, ms := true, val := .level, useIdx := true, useA := true }
  | .PULSE_A => { op := 0x7, an := true, val := .duty, useIdx := true, useA := true }
  | .PULSE_MS_A => { op := 0x7, ms := true, an := true, val := .duty, useIdx := true, useA := true }
  | .PULSEIN => { op := 0x8, val := .level, useIdx := true }
  | .ISBUSY => { op := 0x9, useIdx := true }
  | .CLRP => { op := 0xA, useIdx := true }
  | .CLRP_F => { op := 0xA, force := true, val := .level, useIdx := true }
  | .ELAPSED => { op := 0xB, useA := true, useB := true }
  | .RD => { op := 0xC, useIdx := true }
  | .DONE => { op := 0xD }

/-- The fields are those of the row: its opcode and flags, a value it admits, and zero wherever it uses nothing (R83). -/
structure Layout.Fits (l : Layout) (f : Fields) : Prop where
  op : f.op = l.op
  ms : f.ms = l.ms
  auto : f.auto = l.auto
  an : f.an = l.an
  force : f.force = l.force
  val : l.val.admits f.val = true
  idx : l.useIdx = false → f.idx = 0
  a : l.useA = false → f.a = 0
  b : l.useB = false → f.b = 0

/-- The instruction with this mnemonic and the operands the fields hold. -/
def Fields.instr (f : Fields) : Mnemonic → Instr
  | .TICK => .tick
  | .REGP => .regp f.idx f.a f.b
  | .REGP_AUTO => .regpAuto f.a f.b
  | .REGP_MS => .regpMs f.idx f.a f.b
  | .REGP_MS_AUTO => .regpMsAuto f.a f.b
  | .REG1 => .reg1 f.idx f.a f.b
  | .REG1_AUTO => .reg1Auto f.a f.b
  | .REG1_MS => .reg1Ms f.idx f.a f.b
  | .REG1_MS_AUTO => .reg1MsAuto f.a f.b
  | .CHGP => .chgp f.idx f.a
  | .CLRS => .clrs f.idx
  | .FREE => .free
  | .PULSE => .pulse f.val f.idx f.a
  | .PULSE_MS => .pulseMs f.val f.idx f.a
  | .PULSE_A => .pulseA f.val f.idx f.a
  | .PULSE_MS_A => .pulseMsA f.val f.idx f.a
  | .PULSEIN => .pulsein f.val f.idx
  | .ISBUSY => .isbusy f.idx
  | .CLRP => .clrp f.idx
  | .CLRP_F => .clrpF f.val f.idx
  | .ELAPSED => .elapsed f.a f.b
  | .RD => .rd f.idx
  | .DONE => .done

@[simp] theorem Fields.instr_mnemonic (f : Fields) (m : Mnemonic) : (f.instr m).mnemonic = m := by
  cases m <;> rfl

theorem ValKind.admits_zero_iff (v : Val) : ValKind.zero.admits v = true ↔ v = 0 := by
  rw [← BitVec.toNat_inj]
  simp [ValKind.admits]

theorem ValKind.admits_level_iff (v : Val) : ValKind.level.admits v = true ↔ IsLevel v := by
  simp [ValKind.admits]

/-! ### The decoder finds the layout that fits -/

/-- Fields that fit a row are those its instruction sets, and that instruction is well formed. -/
theorem Layout.Fits.instr {m : Mnemonic} {f : Fields} (h : m.layout.Fits f) :
    (f.instr m).fields = f ∧ (f.instr m).WellFormed := by
  obtain ⟨op, ms, auto, an, force, val, idx, a, b⟩ := f
  obtain ⟨hop, hms, hauto, han, hforce, hval, hidx, ha, hb⟩ := h
  cases m <;> simp_all [Mnemonic.layout, Fields.instr, Instr.fields, Fields.blank, Instr.WellFormed,
    ValKind.admits_zero_iff, ValKind.admits_level_iff]

/-- A well-formed instruction is what its own fields decode to, mnemonic by mnemonic. -/
theorem Instr.decode_fields {i : Instr} (h : i.WellFormed) : i.fields.decode = .ok i := by
  cases i with
  | tick => exact Laws.FieldsRoundTrip.tick h
  | regp idx a b => exact Laws.FieldsRoundTrip.regp idx a b h
  | regpAuto a b => exact Laws.FieldsRoundTrip.regpAuto a b h
  | regpMs idx a b => exact Laws.FieldsRoundTrip.regpMs idx a b h
  | regpMsAuto a b => exact Laws.FieldsRoundTrip.regpMsAuto a b h
  | reg1 idx a b => exact Laws.FieldsRoundTrip.reg1 idx a b h
  | reg1Auto a b => exact Laws.FieldsRoundTrip.reg1Auto a b h
  | reg1Ms idx a b => exact Laws.FieldsRoundTrip.reg1Ms idx a b h
  | reg1MsAuto a b => exact Laws.FieldsRoundTrip.reg1MsAuto a b h
  | chgp idx a => exact Laws.FieldsRoundTrip.chgp idx a h
  | clrs idx => exact Laws.FieldsRoundTrip.clrs idx h
  | free => exact Laws.FieldsRoundTrip.free h
  | pulse val idx a => exact Laws.FieldsRoundTrip.pulse val idx a h
  | pulseMs val idx a => exact Laws.FieldsRoundTrip.pulseMs val idx a h
  | pulseA val idx a => exact Laws.FieldsRoundTrip.pulseA val idx a h
  | pulseMsA val idx a => exact Laws.FieldsRoundTrip.pulseMsA val idx a h
  | pulsein val idx => exact Laws.FieldsRoundTrip.pulsein val idx h
  | isbusy idx => exact Laws.FieldsRoundTrip.isbusy idx h
  | clrp idx => exact Laws.FieldsRoundTrip.clrp idx h
  | clrpF val idx => exact Laws.FieldsRoundTrip.clrpF val idx h
  | elapsed a b => exact Laws.FieldsRoundTrip.elapsed a b h
  | rd idx => exact Laws.FieldsRoundTrip.rd idx h
  | done => exact Laws.FieldsRoundTrip.done h

/-- What the decoder answers is a row's instruction, and the fields fit that row: each arm of R84 checks one layout. -/
theorem Fields.fits_of_decode {f : Fields} {i : Instr} (h : f.decode = .ok i) :
    i.mnemonic.layout.Fits f ∧ f.instr i.mnemonic = i := by
  unfold Fields.decode at h
  split at h
  case h_14 => cases h
  all_goals
    rename_i hop
    try split at h
    all_goals
      obtain ⟨hflags, hval, hidx, ha, hb, rfl⟩ := (Fields.check_eq_ok ..).1 h
      refine ⟨⟨BitVec.eq_of_toNat_eq hop, ?_, ?_, ?_, ?_, hval, hidx, ha, hb⟩, rfl⟩
      all_goals simp_all [Instr.mnemonic, Mnemonic.layout]

/-- The decoder answers an instruction exactly when the fields fit the row of its mnemonic and hold its operands. -/
theorem decode_eq_ok_iff {w : Command} {i : Instr} :
    decode w = .ok i ↔ ∃ m : Mnemonic, m.layout.Fits w.fields ∧ w.fields.instr m = i := by
  constructor
  · intro h
    exact ⟨_, Fields.fits_of_decode h⟩
  · rintro ⟨m, hfits, rfl⟩
    obtain ⟨hfields, hwf⟩ := hfits.instr
    rw [decode, ← Instr.decode_fields hwf, hfields]

/-! ### Mask and match of a row test its layout -/

def Fields.and (f g : Fields) : Fields where
  op := f.op &&& g.op
  ms := f.ms && g.ms
  auto := f.auto && g.auto
  an := f.an && g.an
  force := f.force && g.force
  val := f.val &&& g.val
  idx := f.idx &&& g.idx
  a := f.a &&& g.a
  b := f.b &&& g.b

/-- A mask acts on each field alone. -/
theorem Fields.pack_and_pack (f g : Fields) : f.pack &&& g.pack = (f.and g).pack := by
  simp only [Fields.pack, Fields.header, Fields.and]
  repeat rw [BitVec.and_append]
  simp only [BitVec.ofBool_and_ofBool]

/-- The bits of `val` that must be zero (R83). -/
def ValKind.mask : ValKind → Val
  | .zero => 0xFF
  | .level => 0xFE
  | .duty => 0

theorem ValKind.and_mask_eq_zero_iff (k : ValKind) (v : Val) : v &&& k.mask = 0 ↔ k.admits v = true := by
  cases k with
  | zero => revert v; decide
  | level => revert v; decide
  | duty => simp [ValKind.mask, ValKind.admits]

/-- The bits a row fixes: opcode and flags, and all it does not use. -/
def Layout.mask (l : Layout) : Fields where
  op := 0xF
  ms := true
  auto := true
  an := true
  force := true
  val := l.val.mask
  idx := if l.useIdx then 0 else 0xFFFF
  a := if l.useA then 0 else 0xFFFFFFFF
  b := if l.useB then 0 else 0xFFFFFFFF

/-- The values of the bits a row fixes. -/
def Layout.pattern (l : Layout) : Fields :=
  { Fields.blank l.op with ms := l.ms, auto := l.auto, an := l.an, force := l.force }

/-- A mask of ones over an unused field forces it to zero; over a used one it forces nothing. -/
theorem and_ite_used_eq_zero_iff {n : Nat} (x : BitVec n) (used : Bool) :
    x &&& (if used then 0 else BitVec.allOnes n) = 0 ↔ (used = false → x = 0) := by
  cases used <;> simp

/-- A row's mask and match are the test of its layout. -/
theorem Layout.and_mask_eq_pattern_iff (l : Layout) (f : Fields) : f.and l.mask = l.pattern ↔ l.Fits f := by
  have hop : f.op &&& 0xF = f.op := BitVec.and_allOnes
  have hidx := and_ite_used_eq_zero_iff f.idx l.useIdx
  have ha := and_ite_used_eq_zero_iff f.a l.useA
  have hb := and_ite_used_eq_zero_iff f.b l.useB
  have hval := l.val.and_mask_eq_zero_iff f.val
  simp only [Fields.and, Layout.mask, Layout.pattern, Fields.blank, Fields.mk.injEq, Bool.and_true, hop]
  constructor
  · rintro ⟨op, ms, auto, an, force, val, idx, a, b⟩
    exact ⟨op, ms, auto, an, force, hval.1 val, hidx.1 idx, ha.1 a, hb.1 b⟩
  · rintro ⟨op, ms, auto, an, force, val, idx, a, b⟩
    exact ⟨op, ms, auto, an, force, hval.2 val, hidx.2 idx, ha.2 a, hb.2 b⟩

/-- The row of the opcode map for a mnemonic, from its layout. -/
def Mnemonic.row (m : Mnemonic) : Row := ⟨m, m.layout.pattern.pack, m.layout.mask.pack⟩

theorem Mnemonic.row_mem_opcodeMap (m : Mnemonic) : m.row ∈ opcodeMap := by
  cases m <;> decide

/-- The rows R83 prints are those of the layouts. -/
theorem eq_row_of_mem_opcodeMap : ∀ r ∈ opcodeMap, r = r.mnemonic.row := by
  decide

theorem Mnemonic.row_selects_iff (m : Mnemonic) (w : Command) : m.row.selects w = true ↔ m.layout.Fits w.fields := by
  rw [Row.selects, beq_iff_eq, ← m.layout.and_mask_eq_pattern_iff, ← Fields.pack_inj, ← Fields.pack_and_pack,
    Fields.pack_fields, Mnemonic.row]

/-- A row selects the words that decode to an instruction of its mnemonic. -/
theorem Mnemonic.row_selects_iff_decode (m : Mnemonic) (w : Command) :
    m.row.selects w = true ↔ ∃ i, decode w = .ok i ∧ i.mnemonic = m := by
  rw [m.row_selects_iff]
  constructor
  · intro h
    exact ⟨w.fields.instr m, decode_eq_ok_iff.2 ⟨m, h, rfl⟩, w.fields.instr_mnemonic m⟩
  · rintro ⟨i, hi, rfl⟩
    obtain ⟨m, hfits, rfl⟩ := decode_eq_ok_iff.1 hi
    rwa [Fields.instr_mnemonic]

/-! ### The obligations -/

/-- Settles O1: packing keeps the fields, and the fields of a well-formed instruction decode to it. -/
theorem decodeEncodeRoundTrip : Obligations.DecodeEncodeRoundTrip := by
  intro i hi
  rw [decode, encode, Fields.fields_pack, Instr.decode_fields hi]

/-- Settles O2: the fields fit a row, so they are the fields its instruction sets. -/
theorem decodedWordIsItsEncoding : Obligations.DecodedWordIsItsEncoding := by
  intro w i h
  obtain ⟨m, hfits, rfl⟩ := decode_eq_ok_iff.1 h
  obtain ⟨hfields, hwf⟩ := hfits.instr
  exact ⟨hwf, by rw [encode, hfields, Fields.pack_fields]⟩

/-- Settles O3: each row selects what decodes to its mnemonic, and a word decodes to one instruction at most. -/
theorem decoderIsTheOpcodeMap : Obligations.DecoderIsTheOpcodeMap := by
  intro w
  have selects_iff : ∀ r ∈ opcodeMap, (r.selects w = true ↔ ∃ i, decode w = .ok i ∧ i.mnemonic = r.mnemonic) :=
    fun r hr => by
      rw [eq_row_of_mem_opcodeMap r hr]
      exact r.mnemonic.row_selects_iff_decode w
  refine ⟨selects_iff, fun r hr r' hr' h h' => ?_, fun hnone => ?_⟩
  · obtain ⟨i, hi, hm⟩ := (selects_iff r hr).1 h
    obtain ⟨i', hi', hm'⟩ := (selects_iff r' hr').1 h'
    obtain rfl : i = i' := Except.ok.inj (hi.symm.trans hi')
    rw [eq_row_of_mem_opcodeMap r hr, eq_row_of_mem_opcodeMap r' hr', ← hm, ← hm']
  · cases hd : decode w with
    | error e => exact ⟨e, rfl⟩
    | ok i =>
      have hsel : i.mnemonic.row.selects w = true := (i.mnemonic.row_selects_iff_decode w).2 ⟨i, hd, rfl⟩
      rw [hnone _ i.mnemonic.row_mem_opcodeMap] at hsel
      cases hsel

/-- Settles O4: the decoder run on each word. -/
theorem exampleWordsDecode : Obligations.ExampleWordsDecode := by
  refine ⟨by decide, by decide, by decide, by decide, by decide, by decide, by decide, by decide, by decide, by decide,
    fun w hw => ?illegal⟩
  obtain rfl | rfl | rfl : w = 0 ∨ w = 0xFFFFFFFFFFFFFFFFFFFFFFFF ∨ w = 0x700200010000006400000000 := by simpa using hw
  · decide
  · decide
  · decide

end Sys2Proof

end

/-! ## Assembly and the output ports (30_encoding.md R90 to R97) -/

section

namespace Sys2Proof.Machine

/-! ### Operands written as numbers (R90) -/

theorem Token.bits_num {n : Nat} (x : BitVec n) : (Token.num x.toNat).bits n = some x := by
  simp [Token.bits, x.isLt]

theorem Token.level_num {v : Val} (h : IsLevel v) : (Token.num v.toNat).level = some v := by
  simp [Token.level, h]

theorem Token.addr_num (x : Idx) : (Token.num x.toNat).addr = some x := Token.bits_num x

/-! ### The operand lists -/

theorem asm1_num (f : Idx → Instr) (i : Idx) : asm1 f [.num i.toNat] = some (f i) := by
  simp [asm1, Token.bits_num]

theorem asm2_num (f : Word → Word → Instr) (a b : Word) : asm2 f [.num a.toNat, .num b.toNat] = some (f a b) := by
  simp [asm2, Token.bits_num]

theorem asm3_num (f : Idx → Word → Word → Instr) (i : Idx) (a b : Word) :
    asm3 f [.num i.toNat, .num a.toNat, .num b.toNat] = some (f i a b) := by
  simp [asm3, Token.bits_num]

theorem asmPulse_num {f : Val → Idx → Word → Instr} {value : Token → Option Val} {v : Val}
    (h : value (.num v.toNat) = some v) (i : Idx) (a : Word) :
    asmPulse value f [.num i.toNat, .num a.toNat, .num v.toNat] = some (f v i a) := by
  simp [asmPulse, Token.bits_num, h]

theorem asmPinLevel_num (f : Val → Idx → Instr) {v : Val} (h : IsLevel v) (i : Idx) :
    asmPinLevel f [.num i.toNat, .num v.toNat] = some (f v i) := by
  simp [asmPinLevel, Token.bits_num, Token.level_num h]

/-- The operands of an instruction, in the order of R90, assemble to it under its mnemonic. -/
theorem assemble_tokensOf {i : Instr} (h : i.WellFormed) : assemble i.mnemonic (tokensOf i) = some i := by
  cases i with
  | tick | free | done => rfl
  | regp idx a b | regpMs idx a b | reg1 idx a b | reg1Ms idx a b => exact asm3_num _ idx a b
  | regpAuto a b | regpMsAuto a b | reg1Auto a b | reg1MsAuto a b | elapsed a b => exact asm2_num _ a b
  | chgp idx a => simp [Instr.mnemonic, tokensOf, assemble, Token.bits_num]
  | clrs idx | isbusy idx | clrp idx => exact asm1_num _ idx
  | pulse v idx a | pulseMs v idx a => exact asmPulse_num (Token.level_num h) idx a
  | pulseA v idx a | pulseMsA v idx a => exact asmPulse_num (Token.bits_num v) idx a
  | pulsein v idx | clrpF v idx => exact asmPinLevel_num _ h idx
  | rd idx => exact congrArg (Option.map _) (Token.addr_num idx)

/-- With a second operand other than `KEEP`, CLRP is CLRP.F (R91). -/
theorem asmClrp_level (pin l : Token) (h : l ≠ .keep) : asmClrp [pin, l] = asmPinLevel .clrpF [pin, l] := by
  cases l with
  | keep => exact absurd rfl h
  | num n | low | high | auto | reg r => rfl

/-! ### The obligations -/

/-- Settles O5: the operands in order, then the pseudo-forms, of which only the level form of CLRP needs a case split. -/
theorem assemblyNamesEveryInstruction : Obligations.AssemblyNamesEveryInstruction :=
  ⟨fun _ h => assemble_tokensOf h, fun _ => rfl, fun pin l h => asmClrp_level pin l h, fun _ => rfl, fun _ => rfl, fun _ => rfl,
    fun _ => rfl⟩

/-- Settles O6: the command of each line, with the assembler and the encoder run on it. -/
theorem exampleLinesAssemble : Obligations.ExampleLinesAssemble := by
  intro p hp
  obtain rfl | rfl | rfl | rfl | rfl | rfl | rfl | rfl | rfl | rfl | rfl | rfl := by simpa using hp
  · exact ⟨.tick, by decide, by decide⟩
  · exact ⟨.regp 2 250 0xB2, by decide, by decide⟩
  · exact ⟨.reg1MsAuto 1 0x77, by decide, by decide⟩
  · exact ⟨.chgp 2 1000, by decide, by decide⟩
  · exact ⟨.pulse 1 1 100, by decide, by decide⟩
  · exact ⟨.pulseA 128 2 50, by decide, by decide⟩
  · exact ⟨.clrpF 0 1, by decide, by decide⟩
  · exact ⟨.elapsed 0xFFFFFFF0 0x10, by decide, by decide⟩
  · exact ⟨.rd 0x100A, by decide, by decide⟩
  · exact ⟨.rd 0x011A, by decide, by decide⟩
  · exact ⟨.regpAuto 100 0xA1, by decide, by decide⟩
  · exact ⟨.clrp 0, by decide, by decide⟩

/-- Settles O7: the fields by extraction from an append, the ports event by event. -/
theorem portWordsHoldTheirParts : Obligations.PortWordsHoldTheirParts := by
  refine ⟨fun st v => ⟨BitVec.extractLsb'_append_eq_left, BitVec.extractLsb'_append_eq_right⟩,
    fun i h => ⟨BitVec.extractLsb'_append_eq_left, BitVec.extractLsb'_append_eq_right⟩,
    fun k p v => ⟨?_, ?_, BitVec.extractLsb'_append_eq_right⟩, ⟨rfl, rfl, rfl, rfl, rfl⟩,
    fun p l d => ⟨rfl, rfl, rfl, rfl, rfl⟩, fun st v => rfl, fun k h => rfl, fun e => ?_⟩
  · rw [ioWord, BitVec.extractLsb'_append_eq_of_le (by decide)]
    exact BitVec.extractLsb'_append_eq_left
  · rw [ioWord, BitVec.extractLsb'_append_eq_of_le (by decide)]
    exact BitVec.extractLsb'_append_eq_right
  · cases e <;> simp [Event.respWord?, Event.dispatchWord?, Event.ioWord?, Event.pin?]

end Sys2Proof.Machine

end

/-! ## Dispatches among the events of a step (30_encoding.md R95, R99)

Only the slot scan dispatches, and it is the last work of its command. -/

section

namespace Sys2Proof.Machine

/-! ### Events without a dispatch -/

/-- No dispatch is among the events of the step so far. -/
def State.Undispatched (s : State) : Prop := ∀ k h, Event.dispatch k h ∉ s.out

section

variable (s : State)

theorem State.undispatched_accept : s.accept.Undispatched := by simp [State.Undispatched]

theorem State.Undispatched.of_out_eq {s u : State} (h : s.Undispatched) (ho : u.out = s.out) : u.Undispatched := by
  rwa [State.Undispatched, ho]

@[simp] theorem State.undispatched_emit (e : Event) :
    (s.emit e).Undispatched ↔ s.Undispatched ∧ ∀ k h, Event.dispatch k h ≠ e := by
  simp [State.Undispatched, forall_and]

@[simp] theorem State.undispatched_respond (st : Status) (v : Word) : (s.respond st v).Undispatched ↔ s.Undispatched := by
  simp [State.respond]

@[simp] theorem State.undispatched_raise (st : Status) : (s.raise st).Undispatched ↔ s.Undispatched := by
  simp [State.raise]

@[simp] theorem State.undispatched_setSlot (i : Nat) (x : Slot) : (s.setSlot i x).Undispatched ↔ s.Undispatched := .rfl
@[simp] theorem State.undispatched_setPin (j : Nat) (p : Pin) : (s.setPin j p).Undispatched ↔ s.Undispatched := .rfl
@[simp] theorem State.undispatched_setTime (t : Time) : (s.setTime t).Undispatched ↔ s.Undispatched := .rfl
@[simp] theorem State.undispatched_goIdle : s.goIdle.Undispatched ↔ s.Undispatched := .rfl
@[simp] theorem State.undispatched_dropReply : s.dropReply.Undispatched ↔ s.Undispatched := by simp [State.Undispatched]

end

theorem assertEvent_ne_dispatch (an : Bool) (idx : Idx) (val : Val) (k : Idx) (h : Word) :
    .dispatch k h ≠ assertEvent an idx val := by
  cases an <;> simp [assertEvent]

section

variable {s t : State}

theorem State.Undispatched.pinStep (hs : s.Undispatched) (j : Nat) : (s.pinStep j).Undispatched := by
  rcases s.pinStep_cases j with h | ⟨p, _, _, h⟩ | ⟨p, _, _, _, _, h⟩ <;> rw [h] <;> simpa using hs

theorem State.Undispatched.pinScan (hs : s.Undispatched) : s.pinScan.Undispatched :=
  s.pinScan_induction State.Undispatched hs fun _ j ht => ht.pinStep j

theorem State.Undispatched.register (hs : s.Undispatched) (rep ms : Bool) (sel : Option Idx) (a b : Word) :
    (s.register rep ms sel a b).Undispatched := by
  rcases s.register_cases rep ms sel a b with ⟨st, _, h⟩ | ⟨i, _, h⟩ <;> rw [h] <;> simpa using hs

theorem State.Undispatched.pulse (hs : s.Undispatched) (ms an : Bool) (val : Val) (idx : Idx) (a : Word) :
    (s.pulse ms an val idx a).Undispatched := by
  rcases s.pulse_cases ms an val idx a with ⟨_, h⟩ | ⟨p, _, h⟩ <;> rw [h] <;>
    simpa [assertEvent_ne_dispatch] using hs

/-- Only TICK and DONE dispatch (R199). -/
theorem exec_undispatched {i : Instr} (htick : i ≠ .tick) (hdone : i ≠ .done) (hs : s.Undispatched)
    (h : exec i s = .next t) : t.Undispatched := by
  cases i with
  | tick => exact absurd rfl htick
  | done => exact absurd rfl hdone
  | regp idx a b | regpAuto a b | regpMs idx a b | regpMsAuto a b
  | reg1 idx a b | reg1Auto a b | reg1Ms idx a b | reg1MsAuto a b =>
    cases h
    exact hs.register _ _ _ _ _
  | pulse val idx a | pulseMs val idx a | pulseA val idx a | pulseMsA val idx a =>
    cases h
    exact hs.pulse _ _ _ _ _
  | elapsed a b =>
    cases h
    simpa using hs
  | chgp idx a | clrs idx | free | pulsein val idx | isbusy idx | clrp idx | clrpF val idx | rd idx =>
    simp only [exec, execChgp, execClrs, execFree, execPulsein, execIsbusy, execClrp, execClrpF, execRd] at h
    split at h <;> cases h <;> simpa using hs

/-! ### A dispatch at the end -/

/-- The last two events from `s` to `t` are a dispatch and its response, with `pre` before them (R99). -/
def State.DispatchesAfter (pre : List Event) (s t : State) : Prop :=
  ∃ k h, t.out = s.out ++ pre ++ [.dispatch k h, .resp .ok 1]

theorem State.Undispatched.advance (hs : s.Undispatched) (start : Nat) :
    (s.advance start).Undispatched ∨ s.DispatchesAfter [] (s.advance start) := by
  rcases s.advance_cases start with ⟨i, x, _, h⟩ | ⟨_, h⟩ <;> rw [h]
  · exact .inr ⟨BitVec.ofNat 16 i, x.hid, by simp [s.dispatch_eq i x]⟩
  · exact .inl (by simpa using hs.pinScan)

theorem State.Undispatched.sampled (hs : s.Undispatched) : s.sampled.Undispatched := by
  have hdrop : s.dropSample.Undispatched := hs.of_out_eq s.dropSample_out
  simpa [State.sampled] using hdrop

theorem State.sampled_out (s : State) : s.sampled.out = s.out ++ [.clock s.clockSample] := by
  simp [State.sampled]

theorem execTick_dispatch (hs : s.Undispatched) (h : execTick s = .next t) :
    t.Undispatched ∨ ∃ c, s.DispatchesAfter [.clock c] t := by
  unfold execTick at h
  split at h <;> cases h
  · exact .inl (by simpa using hs)
  · refine (hs.sampled.advance 0).imp_right fun ⟨k, hid, hout⟩ => ⟨s.clockSample, k, hid, ?_⟩
    rwa [s.sampled_out, List.append_nil] at hout

theorem State.releaseOneShot_out (s : State) (x : Slot) : (s.releaseOneShot x).out = s.out := by
  unfold State.releaseOneShot
  split <;> rfl

theorem execDone_dispatch (hs : s.Undispatched) (h : execDone s = .next t) :
    t.Undispatched ∨ s.DispatchesAfter [] t := by
  unfold execDone at h
  split at h
  · cases h
    exact .inl (by simpa using hs)
  · split at h <;> cases h
    rename_i x _
    refine ((hs.of_out_eq (s.releaseOneShot_out x)).advance _).imp_right fun ⟨k, hid, hout⟩ => ⟨k, hid, ?_⟩
    rwa [s.releaseOneShot_out x] at hout

/-- An instruction dispatches nothing, or ends in one dispatch with nothing but the clock sample before it. -/
theorem exec_dispatch {i : Instr} (hs : s.Undispatched) (h : exec i s = .next t) :
    t.Undispatched ∨ s.DispatchesAfter [] t ∨ ∃ c, s.DispatchesAfter [.clock c] t := by
  by_cases htick : i = .tick
  · subst htick
    exact (execTick_dispatch hs h).imp_right .inr
  by_cases hdone : i = .done
  · subst hdone
    exact (execDone_dispatch hs h).imp_right .inl
  exact .inl (exec_undispatched htick hdone hs h)

theorem step_dispatch (h : step s = .next t) :
    t.Undispatched ∨ s.accept.DispatchesAfter [] t ∨ ∃ c, s.accept.DispatchesAfter [.clock c] t := by
  by_cases hc : s.commands = []
  · have hwait : t = s.wait := by simpa [step, State.nextCommand, hc] using h.symm
    exact .inl (by simp [hwait, State.Undispatched])
  · rcases step_next_cases hc h with ⟨i, hi⟩ | rfl
    · exact exec_dispatch s.undispatched_accept hi
    · exact .inl (by simpa [State.illegal] using s.undispatched_accept)

end

/-- Settles O12: a step that dispatches ends in that one dispatch, so the dispatch among its events is the last. -/
theorem dispatchComesLastAndAlone : Obligations.DispatchComesLastAndAlone := by
  intro s t k h hstep hmem
  rcases step_dispatch hstep with hnone | ⟨k', h', hout⟩ | ⟨c, k', h', hout⟩
  · exact absurd hmem (hnone k h)
  · obtain ⟨rfl, rfl⟩ : k = k' ∧ h = h' := by simpa [hout] using hmem
    exact .inl hout
  · obtain ⟨rfl, rfl⟩ : k = k' ∧ h = h' := by simpa [hout] using hmem
    exact .inr ⟨c, hout⟩

end Sys2Proof.Machine

end

/-! ## The arithmetic of time (40_time_arithmetic.md R110 to R118)

The elapsed time is the one number below MOD that added to the earlier instant reaches the later one modulo MOD. The forward
distance, the hardware forms and the corners of the due comparator are read off from that. -/

section

namespace Sys2Proof.Machine

/-! ### The elapsed time (R110 to R112) -/

section

variable {mod : Nat}

/-- Keeping 32 bits loses nothing of the remainder of R110. -/
theorem elapsed_toNat_cast (h0 : 0 < mod) (h32 : mod ≤ 2 ^ 32) (a b : Time) :
    ((elapsed mod a b).toNat : Int) = ((b.toNat : Int) - (a.toNat : Int)) % (mod : Int) := by
  have hlo := Int.emod_nonneg ((b.toNat : Int) - a.toNat) (Int.natCast_ne_zero.2 h0.ne')
  have hhi := Int.emod_lt_of_pos ((b.toNat : Int) - a.toNat) (Int.natCast_pos.2 h0)
  rw [elapsed, BitVec.toNat_ofInt]
  omega

/-- The elapsed time is the one number below MOD that leads from the first instant to the second modulo MOD. -/
theorem elapsed_toNat_eq_iff (h32 : mod ≤ 2 ^ 32) {a b : Time} {v : Nat} (hv : v < mod) :
    (elapsed mod a b).toNat = v ↔ b.toNat ≡ a.toNat + v [MOD mod] := by
  have hv' : (v : Int) % mod = v := Int.emod_eq_of_lt (by omega) (by omega)
  calc (elapsed mod a b).toNat = v
      ↔ (b.toNat : Int) - a.toNat ≡ v [ZMOD mod] := by
        rw [← Int.natCast_inj, elapsed_toNat_cast (by omega) h32, Int.ModEq, hv']
    _ ↔ (b.toNat : Int) ≡ a.toNat + v [ZMOD mod] := by
        rw [Int.modEq_iff_dvd, Int.modEq_iff_dvd, sub_sub_eq_add_sub, add_comm (v : Int)]
    _ ↔ b.toNat ≡ a.toNat + v [MOD mod] := by rw [← Nat.cast_add, Int.natCast_modEq_iff]

@[simp] theorem elapsed_self (mod : Nat) (a : Time) : elapsed mod a a = 0 := by simp [elapsed]

/-- The hardware form for the full word: the plain subtraction (R112). -/
theorem elapsed_two_pow (a b : Time) : elapsed (2 ^ 32) a b = b - a := by
  have hsub : b.toNat ≡ a.toNat + (b - a).toNat [MOD 2 ^ 32] := by
    rw [Nat.ModEq, BitVec.toNat_sub]
    omega
  exact BitVec.eq_of_toNat_eq ((elapsed_toNat_eq_iff le_rfl (b - a).isLt).2 hsub)

/-- The hardware form for operands below MOD: one correction by MOD after a wraparound (R112). -/
theorem elapsed_toNat_of_lt (h32 : mod ≤ 2 ^ 32) {a b : Time} (ha : a.toNat < mod) (hb : b.toNat < mod) :
    (elapsed mod a b).toNat = if a.toNat ≤ b.toNat then b.toNat - a.toNat else b.toNat + mod - a.toNat := by
  split
  · refine (elapsed_toNat_eq_iff h32 (by omega)).2 ?_
    rw [Nat.add_sub_cancel' ‹_›]
  · refine (elapsed_toNat_eq_iff h32 (by omega)).2 ?_
    rw [Nat.add_sub_cancel' (by omega), Nat.ModEq, Nat.add_mod_right]

/-- An instant `d` units on, wrapped at MOD, has the elapsed time `d mod MOD` (R111). -/
theorem elapsed_forward (h0 : 0 < mod) (h32 : mod ≤ 2 ^ 32) (a : Time) (d : Nat) :
    (elapsed mod a (BitVec.ofNat 32 ((a.toNat + d) % mod))).toNat = d % mod := by
  have hmod := Nat.mod_lt (a.toNat + d) h0
  refine (elapsed_toNat_eq_iff h32 (Nat.mod_lt d h0)).2 ?_
  rw [BitVec.toNat_ofNat, Nat.mod_eq_of_lt (hmod.trans_le h32)]
  exact (Nat.mod_modEq _ _).trans ((Nat.mod_modEq d mod).symm.add_left _)

end

/-- Settles O17: the remainder itself, its range, and the two hardware forms. -/
theorem elapsedIsTheModularDifference : Obligations.ElapsedIsTheModularDifference := by
  intro mod a b h0 h32
  refine ⟨elapsed_toNat_cast h0 h32 a b, elapsed_toNat_lt h0 h32 a b, ?_, elapsed_toNat_of_lt h32⟩
  rintro rfl
  exact elapsed_two_pow a b

/-- Settles O18: the forward distance is a remainder, and a remainder is the number itself exactly below the modulus. -/
theorem elapsedIsTheForwardDistance : Obligations.ElapsedIsTheForwardDistance := by
  intro mod d a h0 h32
  have hd := elapsed_forward h0 h32 a d
  refine ⟨hd, ?_⟩
  rw [hd, Nat.mod_eq_iff_lt (by omega)]

/-! ### The due comparator (R113, R114) -/

section

variable {mod : Nat} {last now period : Time}

theorem due_eq_true : due mod last now period = true ↔ period.toNat ≤ (elapsed mod last now).toNat := by
  simp [due]

/-- The case (b): a slot that has just fired is due at once only with period 0. -/
theorem due_self : due mod now now period = true ↔ period = 0 := by
  rw [due_eq_true, elapsed_self, ← BitVec.le_def]
  exact BitVec.le_zero_iff

/-- The case (c): an elapsed time stays below MOD, so a longer period never falls due. -/
theorem due_eq_false_of_le (h0 : 0 < mod) (h32 : mod ≤ 2 ^ 32) (h : mod ≤ period.toNat) :
    due mod last now period = false := by
  have hlt := elapsed_toNat_lt h0 h32 last now
  rw [← Bool.not_eq_true, due_eq_true]
  omega

/-- One step back from an instant, modulo MOD, is MOD - 1 steps forward. -/
theorem eq_pred_emod_iff {a b p : Nat} (hp : p + 1 = mod) (hb : b < mod) :
    (b : Int) = ((a : Int) - 1) % (mod : Int) ↔ b ≡ a + p [MOD mod] := by
  have hb' : (b : Int) % mod = b := Int.emod_eq_of_lt (by omega) (by omega)
  have hshift : ((a + p : Nat) : Int) - b = (a - 1 - b) + mod := by omega
  calc (b : Int) = ((a : Int) - 1) % mod
      ↔ (b : Int) ≡ a - 1 [ZMOD mod] := by rw [Int.ModEq, hb']
    _ ↔ (b : Int) ≡ (a + p : Nat) [ZMOD mod] := by
        rw [Int.modEq_iff_dvd, Int.modEq_iff_dvd, hshift, dvd_add_self_right]
    _ ↔ b ≡ a + p [MOD mod] := Int.natCast_modEq_iff

/-- The case (d): the longest period that falls due does so at one instant alone, the one just before it would wrap to `last`. -/
theorem due_of_longest_period (h32 : mod ≤ 2 ^ 32) (hp : period.toNat + 1 = mod) (hnow : now.toNat < mod) :
    due mod last now period = true ↔ (now.toNat : Int) = ((last.toNat : Int) - 1) % (mod : Int) := by
  have hlt := elapsed_toNat_lt (by omega) h32 last now
  calc due mod last now period = true
      ↔ (elapsed mod last now).toNat = period.toNat := by rw [due_eq_true]; omega
    _ ↔ now.toNat ≡ last.toNat + period.toNat [MOD mod] := elapsed_toNat_eq_iff h32 (by omega)
    _ ↔ _ := (eq_pred_emod_iff hp hnow).symm

/-- The case (e): from ten units before the wraparound to twenty after it. -/
theorem elapsed_across_wrap (h32 : mod ≤ 2 ^ 32) (h30 : 30 ≤ mod) :
    (elapsed mod (BitVec.ofNat 32 (mod - 10)) 20).toNat = 30 % mod := by
  have hlast : (BitVec.ofNat 32 (mod - 10)).toNat = mod - 10 := by
    rw [BitVec.toNat_ofNat, Nat.mod_eq_of_lt (by omega)]
  refine (elapsed_toNat_eq_iff h32 (Nat.mod_lt 30 (by omega))).2 ?_
  rw [hlast]
  calc 20 ≡ 20 + mod [MOD mod] := (Nat.add_mod_right 20 mod).symm
    _ = mod - 10 + 30 := by omega
    _ ≡ mod - 10 + 30 % mod [MOD mod] := (Nat.mod_modEq 30 mod).symm.add_left _

end

/-- Settles O19: the corner cases (a) to (e), one by one. -/
theorem dueCornerCases : Obligations.DueCornerCases := by
  intro mod last now period h2 h32
  exact ⟨due_eq_true.2 (Nat.zero_le _), due_self, due_eq_false_of_le (by omega) h32,
    fun hp _ hnow => due_of_longest_period h32 hp hnow, elapsed_across_wrap h32⟩

/-! ### The millisecond scaling (R115) -/

theorem scale_units (tpm : Nat) (a : Word) : scale tpm false a = a := rfl

theorem scale_ms_toNat (tpm : Nat) (a : Word) : (scale tpm true a).toNat = a.toNat * tpm % 2 ^ 32 :=
  BitVec.toNat_ofNat _ _

/-- Settles O20: with one unit per millisecond the product is the word itself, which the low 32 bits hold. -/
theorem millisecondScaling : Obligations.MillisecondScaling := by
  intro tpm a
  refine ⟨scale_units tpm a, scale_ms_toNat tpm a, BitVec.eq_of_toNat_eq ?_⟩
  rw [scale_ms_toNat, mul_one, Nat.mod_eq_of_lt a.isLt]

/-! ### ELAPSED (R118) -/

theorem exec_elapsed (a b : Word) (s : State) : exec (.elapsed a b) s = .next (s.respond .ok (elapsed s.mod a b)) := rfl

/-- Settles O21: the answer is one response, whose value is the elapsed time. -/
theorem elapsedCommandResult : Obligations.ElapsedCommandResult :=
  fun s a b h0 h32 => ⟨_, _, exec_elapsed a b s, s.onlyEmits_respond .ok _, elapsed_toNat_cast h0 h32 a b⟩

end Sys2Proof.Machine

end

/-! ## The slot commands (41_slot_commands.md R130 to R148)

The `.AUTO` forms, FREE and the count of R148 (c) all turn on which slot `firstFree()` names; the eight registrations are one
operation, told apart by its slot, its repeat bit and its time unit. -/

section

namespace Sys2Proof.Machine

/-! ### The lowest free slot (R130) -/

section

variable (s : State)

theorem Slot.free_eq_true {x : Slot} : x.free = true ↔ x.occ = false := by simp [Slot.free]

theorem Slot.free_eq_false {x : Slot} : x.free = false ↔ x.occ = true := by simp [Slot.free]

theorem State.firstFree_eq_some_iff {i : Nat} :
    s.firstFree = some i ↔
      (∃ x, s.slots[i]? = some x ∧ x.occ = false) ∧ ∀ k, k < i → ∀ y, s.slots[k]? = some y → y.occ = true := by
  have hfind : s.firstFree = some i ↔ ∃ x, firstFrom Slot.free s.slots 0 = some (i, x) := by simp [State.firstFree]
  simp only [hfind, firstFrom_eq_some, Slot.free_eq_true, Slot.free_eq_false, Nat.zero_le, true_and, Nat.sub_zero,
    ← and_assoc, exists_and_right]

theorem State.firstFree_eq_none_iff : s.firstFree = none ↔ ∀ x ∈ s.slots, x.occ = true := by
  simp only [State.firstFree, Option.map_eq_none_iff, firstFrom_eq_none, Slot.free_eq_false]

end

/-- Settles O22: the lookup is a search of the table from index 0 for a record that is free. -/
theorem firstFreeIsTheLowestFreeSlot : Obligations.FirstFreeIsTheLowestFreeSlot :=
  fun s => ⟨fun _ => s.firstFree_eq_some_iff, s.firstFree_eq_none_iff⟩

/-! ### The registration core (R131) -/

section

variable {s : State} {i : Nat}

theorem State.target_auto_of_firstFree (h : s.firstFree = some i) : s.target none = .ok i := by
  simp only [State.target, h]

theorem State.target_auto_of_full (h : s.firstFree = none) : s.target none = .error .noSlot := by
  simp only [State.target, h]

theorem State.register_of_target_error {sel : Option Idx} {st : Status} (h : s.target sel = .error st) (rep ms : Bool)
    (a b : Word) : s.register rep ms sel a b = s.raise st := by
  simp only [State.register, h]

/-- A registration that has a target writes that slot and answers its index. -/
theorem State.writesSlot_register {sel : Option Idx} (h : s.target sel = .ok i) (rep ms : Bool) (a b : Word) :
    WritesSlot i ⟨true, b, s.duration ms a, s.now, rep⟩ [.resp .ok (BitVec.ofNat 32 i)] s (s.register rep ms sel a b) := by
  have heq : s.register rep ms sel a b =
      (s.setSlot i ⟨true, b, s.duration ms a, s.now, rep⟩).respond .ok (BitVec.ofNat 32 i) := by
    simp only [State.register, h]
  rw [heq]
  exact s.writesSlot_setSlot_respond (s.target_lt sel i h) _ _ _

theorem State.writesSlot_register_index {idx : Idx} (h : idx.toNat < s.slots.length) (rep ms : Bool) (a b : Word) :
    WritesSlot idx.toNat ⟨true, b, s.duration ms a, s.now, rep⟩ [.resp .ok (idx.zeroExtend 32)] s
      (s.register rep ms (some idx) a b) := by
  have hvalue : idx.zeroExtend 32 = BitVec.ofNat 32 idx.toNat := (BitVec.ofNat_toNat 32 idx).symm
  rw [hvalue]
  exact State.writesSlot_register (s.target_index idx h) rep ms a b

theorem State.writesSlot_register_auto (h : s.firstFree = some i) (rep ms : Bool) (a b : Word) :
    WritesSlot i ⟨true, b, s.duration ms a, s.now, rep⟩ [.resp .ok (BitVec.ofNat 32 i)] s (s.register rep ms none a b) :=
  State.writesSlot_register (State.target_auto_of_firstFree h) rep ms a b

end

/-- Settles O24: the four forms are the registration core with the lowest free slot as its target. -/
theorem autoRegistrationResult : Obligations.AutoRegistrationResult := by
  intro s a b i x hx hfree hbelow
  have hauto := State.writesSlot_register_auto (s.firstFree_eq_some_iff.2 ⟨⟨x, hx, hfree⟩, hbelow⟩)
  exact ⟨⟨_, rfl, hauto true false a b⟩, ⟨_, rfl, hauto true true a b⟩, ⟨_, rfl, hauto false false a b⟩,
    ⟨_, rfl, hauto false true a b⟩⟩

/-- Settles O23: the four forms are the registration core with the index as its target, whatever the slot held. -/
theorem explicitRegistrationResult : Obligations.ExplicitRegistrationResult := by
  intro s idx a b hidx
  have hindex := State.writesSlot_register_index hidx
  exact ⟨⟨_, rfl, hindex true false a b⟩, ⟨_, rfl, hindex true true a b⟩, ⟨_, rfl, hindex false false a b⟩,
    ⟨_, rfl, hindex false true a b⟩⟩

/-! ### FREE (R146) -/

section

variable {s : State} {i : Nat}

theorem State.exec_free_of_some (h : s.firstFree = some i) : exec .free s = .next (s.respond .ok (BitVec.ofNat 32 i)) := by
  simp only [exec, execFree, h]

theorem State.exec_free_of_none (h : s.firstFree = none) : exec .free s = .next (s.raise .noSlot) := by
  simp only [exec, execFree, h]

theorem State.firstFree_congr {t : State} (h : t.slots = s.slots) : t.firstFree = s.firstFree := by
  simp only [State.firstFree, h]

end

/-- Settles O27: the answer leaves the table as it was, so the registration that follows finds the same slot. -/
theorem freeLookupResult : Obligations.FreeLookupResult := by
  refine fun s => ⟨fun i x hx hfree hbelow => ?_, fun hfull => ?_⟩
  · have hi := s.firstFree_eq_some_iff.2 ⟨⟨x, hx, hfree⟩, hbelow⟩
    refine ⟨_, State.exec_free_of_some hi, s.onlyEmits_respond _ _, fun a b => ?_⟩
    have hnext := (State.firstFree_congr (s.respond_slots .ok (BitVec.ofNat 32 i))).trans hi
    obtain ⟨hslot, _⟩ := State.writesSlot_register_auto hnext true false a b
    exact ⟨_, _, rfl, hslot, rfl, rfl⟩
  · exact ⟨_, State.exec_free_of_none (s.firstFree_eq_none_iff.2 hfull), s.onlyEmits_raise .noSlot⟩

/-! ### The number of occupied slots (R148 (c)) -/

theorem State.occupied_eq_length_iff (s : State) : s.occupied = s.slots.length ↔ s.firstFree = none := by
  rw [s.firstFree_eq_none_iff]
  exact List.countP_eq_length

theorem State.exists_firstFree_of_occupied_lt {s : State} (h : s.occupied < s.slots.length) : ∃ i, s.firstFree = some i :=
  Option.ne_none_iff_exists'.1 fun hnone => h.ne (s.occupied_eq_length_iff.2 hnone)

/-- Writing an occupied record over a free one makes one more. -/
theorem WritesSlot.occupied_eq {i : Nat} {x y : Slot} {evs : List Event} {s t : State} (h : WritesSlot i x evs s t)
    (hy : s.slots[i]? = some y) (hfree : y.occ = false) (hocc : x.occ = true) : t.occupied = s.occupied + 1 := by
  obtain ⟨hlt, rfl⟩ := List.getElem?_eq_some_iff.1 hy
  rw [State.occupied, h.slots_eq, List.countP_set hlt]
  simp [State.occupied, hfree, hocc]

theorem exec_auto_eq_register {a b : Word} {i : Instr}
    (h : i ∈ [Instr.regpAuto a b, .regpMsAuto a b, .reg1Auto a b, .reg1MsAuto a b]) (s : State) :
    ∃ rep ms, exec i s = .next (s.register rep ms none a b) := by
  simp only [List.mem_cons, List.not_mem_nil, or_false] at h
  obtain rfl | rfl | rfl | rfl := h
  · exact ⟨true, false, rfl⟩
  · exact ⟨true, true, rfl⟩
  · exact ⟨false, false, rfl⟩
  · exact ⟨false, true, rfl⟩

/-- Settles O29: with fewer than N occupied there is a lowest free slot, and it becomes occupied; with N there is none. -/
theorem autoRegistrationCounts : Obligations.AutoRegistrationCounts := by
  intro s a b i hi
  obtain ⟨rep, ms, hexec⟩ := exec_auto_eq_register hi s
  refine ⟨fun hlt => ⟨_, hexec, ?_⟩, fun hfull => ⟨_, hexec, ?_⟩⟩
  · obtain ⟨k, hk⟩ := State.exists_firstFree_of_occupied_lt hlt
    obtain ⟨⟨x, hx, hfree⟩, _⟩ := s.firstFree_eq_some_iff.1 hk
    exact (State.writesSlot_register_auto hk rep ms a b).occupied_eq hx hfree rfl
  · have hnone := State.target_auto_of_full (s.occupied_eq_length_iff.1 hfull)
    rw [State.register_of_target_error hnone]
    exact ⟨hfull, s.raise_out .noSlot⟩

/-! ### CHGP and CLRS (R142, R144) -/

section

variable {s : State} {idx : Idx} {x : Slot}

theorem State.exec_chgp_of_some (h : s.slotAt idx = some x) (a : Word) :
    exec (.chgp idx a) s = .next ((s.setSlot idx.toNat { x with period := a, lastFired := s.now }).respond .ok 0) := by
  simp only [exec, execChgp, h]

theorem State.exec_chgp_of_none (h : s.slotAt idx = none) (a : Word) : exec (.chgp idx a) s = .next (s.raise .eIndex) := by
  simp only [exec, execChgp, h]

theorem State.exec_clrs_of_some (h : s.slotAt idx = some x) :
    exec (.clrs idx) s = .next ((s.setSlot idx.toNat { x with occ := false }).respond .ok 0) := by
  simp only [exec, execClrs, h]

theorem State.exec_clrs_of_none (h : s.slotAt idx = none) : exec (.clrs idx) s = .next (s.raise .eIndex) := by
  simp only [exec, execClrs, h]

end

/-- Settles O25: the record read is written back with two fields changed, and nothing asks whether it is occupied. -/
theorem changePeriodResult : Obligations.ChangePeriodResult := by
  refine fun s idx a => ⟨fun x hx => ?_, fun hout => ?_⟩
  · exact ⟨_, State.exec_chgp_of_some ((s.slotAt_eq_some idx x).2 hx) a,
      s.writesSlot_setSlot_respond (List.getElem?_eq_some_iff.1 hx).1 _ _ _⟩
  · exact ⟨_, State.exec_chgp_of_none ((s.slotAt_eq_none idx).2 hout) a, s.onlyEmits_raise .eIndex⟩

/-- Settles O26: the record read is written back with `occ` at 0. -/
theorem clearSlotResult : Obligations.ClearSlotResult := by
  refine fun s idx => ⟨fun x hx => ?_, fun hout => ?_⟩
  · exact ⟨_, State.exec_clrs_of_some ((s.slotAt_eq_some idx x).2 hx),
      s.writesSlot_setSlot_respond (List.getElem?_eq_some_iff.1 hx).1 _ _ _⟩
  · exact ⟨_, State.exec_clrs_of_none ((s.slotAt_eq_none idx).2 hout), s.onlyEmits_raise .eIndex⟩

end Sys2Proof.Machine

end

/-! ## The pin commands (42_pin_commands.md R160 to R178)

Each command that writes is one write of one record, with the driver events before the response. What becomes of a pulse is the
pin scan seen from its pin: the one pin step of that pin, among work that does not concern it. -/

section

namespace Sys2Proof.Machine

/-! ### Levels in a `val` field (R81, R160) -/

theorem valLevel_zeroExtend (l : Level) : valLevel (l.zeroExtend 8) = l := by
  revert l
  decide

theorem linv_zeroExtend (l : Level) : linv (l.zeroExtend 8) = ~~~l := by
  revert l
  decide

theorem assertEvent_level (idx : Idx) (l : Level) : assertEvent false idx (l.zeroExtend 8) = .ioWrite idx l :=
  congrArg (Event.ioWrite idx) (valLevel_zeroExtend l)

/-! ### What each command does (R161, R170, R173, R175, R176) -/

section

variable {s : State} {idx : Idx} {p : Pin}

/-- The pulse core on a pin of the table. -/
theorem State.writesPin_pulse (h : s.pins[idx.toNat]? = some p) (ms an : Bool) (val : Val) (a : Word) :
    WritesPin idx.toNat ⟨s.now, p.readingAt, s.duration ms a, val⟩ [.ioSetOutput idx, assertEvent an idx val, .resp .ok 0] s
      (s.pulse ms an val idx a) := by
  refine State.writesPin_of_eq (List.getElem?_eq_some_iff.1 h).1 ?_
  simp [State.pulse, (s.pinAt_eq_some idx p).2 h, State.setPin, State.respond, State.emit]

/-- The pulse core at a level: the assertion write is of that level. -/
theorem State.writesPin_pulse_level (h : s.pins[idx.toNat]? = some p) (ms : Bool) (l : Level) (a : Word) :
    WritesPin idx.toNat ⟨s.now, p.readingAt, s.duration ms a, l.zeroExtend 8⟩ [.ioSetOutput idx, .ioWrite idx l, .resp .ok 0] s
      (s.pulse ms false (l.zeroExtend 8) idx a) :=
  assertEvent_level idx l ▸ State.writesPin_pulse h ms false (l.zeroExtend 8) a

theorem State.exec_pulsein_of_lt (h : idx.toNat < s.pins.length) (l : Level) :
    exec (.pulsein (l.zeroExtend 8) idx) s =
      .next (((s.emit (.ioSetInput idx)).setPin idx.toNat ⟨0, s.now, 0, l.zeroExtend 8⟩).respond .ok 0) := by
  simp only [exec, execPulsein, (s.pinAt_eq_some idx _).2 (List.getElem?_eq_getElem h), valLevel_zeroExtend, levelVal]

theorem Pin.busy_eq_true : p.busy = true ↔ p.firedAt ≠ 0 ∨ p.readingAt ≠ 0 := by
  simp [Pin.busy]

theorem State.exec_isbusy_of_some (h : s.pins[idx.toNat]? = some p) :
    exec (.isbusy idx) s = .next (s.respond .ok (if p.busy then 1 else 0)) := by
  simp only [exec, execIsbusy, (s.pinAt_eq_some idx p).2 h, zeroExtend_ofBool]

theorem State.exec_isbusy_of_busy (h : s.pins[idx.toNat]? = some p) (hbusy : p.firedAt ≠ 0 ∨ p.readingAt ≠ 0) :
    exec (.isbusy idx) s = .next (s.respond .ok 1) := by
  rw [State.exec_isbusy_of_some h, if_pos (Pin.busy_eq_true.2 hbusy)]

theorem State.exec_isbusy_of_idle (h : s.pins[idx.toNat]? = some p) (hidle : ¬(p.firedAt ≠ 0 ∨ p.readingAt ≠ 0)) :
    exec (.isbusy idx) s = .next (s.respond .ok 0) := by
  rw [State.exec_isbusy_of_some h, if_neg (mt Pin.busy_eq_true.1 hidle)]

theorem State.exec_clrp_of_some (h : s.pins[idx.toNat]? = some p) :
    exec (.clrp idx) s = .next ((s.setPin idx.toNat p.cleared).respond .ok 0) := by
  simp only [exec, execClrp, (s.pinAt_eq_some idx p).2 h]

theorem State.exec_clrpF_of_some (h : s.pins[idx.toNat]? = some p) (l : Level) :
    exec (.clrpF (l.zeroExtend 8) idx) s =
      .next (((s.setPin idx.toNat p.cleared).emit (.ioWrite idx l)).respond .ok 0) := by
  simp only [exec, execClrpF, (s.pinAt_eq_some idx p).2 h, valLevel_zeroExtend]

/-- Every pin command checks its index first (R245). -/
theorem State.exec_of_pin_out (h : s.pins.length ≤ idx.toNat) (val : Val) (a : Word) {i : Instr}
    (hi : i ∈ pinIndexed val idx a) : exec i s = .next (s.raise .eIndex) := by
  have hnone := (s.pinAt_eq_none idx).2 h
  simp only [pinIndexed, List.mem_cons, List.not_mem_nil, or_false] at hi
  obtain rfl | rfl | rfl | rfl | rfl | rfl | rfl | rfl := hi
  · simp only [exec, execPulse, State.pulse, hnone]
  · simp only [exec, execPulseMs, State.pulse, hnone]
  · simp only [exec, execPulseA, State.pulse, hnone]
  · simp only [exec, execPulseMsA, State.pulse, hnone]
  · simp only [exec, execPulsein, hnone]
  · simp only [exec, execIsbusy, hnone]
  · simp only [exec, execClrp, hnone]
  · simp only [exec, execClrpF, hnone]

end

/-- Settles O30: the four forms are the pulse core, told apart by its time unit and its assertion write. -/
theorem pulseFormsResult : Obligations.PulseFormsResult := by
  intro s idx a l d p hp
  exact ⟨⟨_, rfl, State.writesPin_pulse_level hp false l a⟩, ⟨_, rfl, State.writesPin_pulse_level hp true l a⟩,
    ⟨_, rfl, State.writesPin_pulse hp false true d a⟩, ⟨_, rfl, State.writesPin_pulse hp true true d a⟩⟩

/-- Settles O31: the new record does not depend on the one it replaces. -/
theorem pulseInResult : Obligations.PulseInResult := by
  refine fun s idx l => ⟨fun hin => ?_, fun hout => ?_⟩
  · refine ⟨_, State.exec_pulsein_of_lt hin l, State.writesPin_of_eq hin ?_⟩
    simp [State.setPin, State.respond, State.emit]
  · exact ⟨_, State.exec_of_pin_out hout (l.zeroExtend 8) 0 (by simp [pinIndexed]), s.onlyEmits_raise .eIndex⟩

/-- Settles O32: the answer is the predicate `busy` of the record (R43). -/
theorem isBusyResult : Obligations.IsBusyResult := by
  refine fun s idx => ⟨fun p hp => ?_, fun hout => ?_⟩
  · by_cases hbusy : p.firedAt ≠ 0 ∨ p.readingAt ≠ 0
    · exact ⟨_, 1, State.exec_isbusy_of_busy hp hbusy, s.onlyEmits_respond .ok 1, fun _ => rfl,
        fun hfired hreading => absurd hbusy (by simp [hfired, hreading])⟩
    · exact ⟨_, 0, State.exec_isbusy_of_idle hp hbusy, s.onlyEmits_respond .ok 0, (absurd · hbusy), fun _ _ => rfl⟩
  · exact ⟨_, State.exec_of_pin_out hout 0 0 (by simp [pinIndexed]), s.onlyEmits_raise .eIndex⟩

/-- Settles O33: both forms write the cleared record; the level form emits one event before the response. -/
theorem clearPinResult : Obligations.ClearPinResult := by
  refine fun s idx l => ⟨fun p hp => ?_, fun hout => ?_⟩
  · have hlt := (List.getElem?_eq_some_iff.1 hp).1
    refine ⟨⟨_, State.exec_clrp_of_some hp, State.writesPin_of_eq hlt rfl⟩,
      ⟨_, State.exec_clrpF_of_some hp l, State.writesPin_of_eq hlt ?_⟩⟩
    simp [State.setPin, State.respond, State.emit, Pin.cleared]
  · have hrefused {i : Instr} := State.exec_of_pin_out hout (l.zeroExtend 8) 0 (i := i)
    exact ⟨⟨_, hrefused (by simp [pinIndexed]), s.onlyEmits_raise .eIndex⟩,
      ⟨_, hrefused (by simp [pinIndexed]), s.onlyEmits_raise .eIndex⟩⟩

/-! ### A tick seen from one pin (R204, R205) -/

/-- From `s` to `t` nothing happened to pin `idx`: its record is the same and no event is of it. -/
structure State.LeavesPin (idx : Idx) (s t : State) : Prop where
  record : t.pins[idx.toNat]? = s.pins[idx.toNat]?
  events : ∃ evs, t.out = s.out ++ evs ∧ ∀ e ∈ evs, e.pin? ≠ some idx

section

variable {idx : Idx} {s t u : State}

theorem State.LeavesPin.refl (idx : Idx) (s : State) : s.LeavesPin idx s := ⟨rfl, [], by simp⟩

theorem State.LeavesPin.trans (h : s.LeavesPin idx t) (k : t.LeavesPin idx u) : s.LeavesPin idx u := by
  obtain ⟨hrecord, es, hout, hes⟩ := h
  obtain ⟨krecord, fs, kout, hfs⟩ := k
  exact ⟨krecord.trans hrecord, es ++ fs, by rw [kout, hout, List.append_assoc],
    fun e he => (List.mem_append.1 he).elim (hes e) (hfs e)⟩

theorem State.LeavesPin.of_emitted {e : Event} (hpins : t.pins[idx.toNat]? = s.pins[idx.toNat]?)
    (hout : t.out = s.out ++ [e]) (he : e.pin? ≠ some idx) : s.LeavesPin idx t :=
  ⟨hpins, [e], hout, by simpa using he⟩

/-- Within 16 bits, numbers that differ name different pins in an event. -/
theorem ofNat_ne_idx {k : Nat} (hk : k < 2 ^ 16) (hne : k ≠ idx.toNat) : BitVec.ofNat 16 k ≠ idx := fun h =>
  hne (by rw [← h, BitVec.toNat_ofNat, Nat.mod_eq_of_lt hk])

/-- The step of one pin does not concern another. -/
theorem State.leavesPin_pinStep {k : Nat} (hk : k < 2 ^ 16) (hne : k ≠ idx.toNat) (s : State) :
    s.LeavesPin idx (s.pinStep k) := by
  have hidx := ofNat_ne_idx hk hne
  rcases s.pinStep_cases k with h | ⟨p, _, _, h⟩ | ⟨p, _, _, _, _, h⟩ <;> rw [h]
  · exact .refl idx s
  · exact .of_emitted (e := .ioRead (BitVec.ofNat 16 k) s.readReply) (by simp [List.getElem?_set_ne hne]) (by simp)
      (by simpa [Event.pin?] using hidx)
  · exact .of_emitted (e := .ioWrite (BitVec.ofNat 16 k) (linv p.targetValue)) (by simp [List.getElem?_set_ne hne]) (by simp)
      (by simpa [Event.pin?] using hidx)

theorem State.pinStep_mod (s : State) (k : Nat) : (s.pinStep k).mod = s.mod := by
  rcases s.pinStep_cases k with h | ⟨p, _, _, h⟩ | ⟨p, _, _, _, _, h⟩ <;> simp [h]

/-- Steps of other pins: the pin is left alone, and so are the two values a pin step reads beside its record. -/
theorem State.foldl_pinStep_leavesPin (l : List Nat) (hl : ∀ k ∈ l, k < 2 ^ 16 ∧ k ≠ idx.toNat) (s : State) :
    s.LeavesPin idx (l.foldl State.pinStep s) ∧ (l.foldl State.pinStep s).now = s.now ∧
      (l.foldl State.pinStep s).mod = s.mod := by
  induction l generalizing s with
  | nil => exact ⟨.refl idx s, rfl, rfl⟩
  | cons k l ih =>
    obtain ⟨hk, hne⟩ := hl k List.mem_cons_self
    obtain ⟨hleaves, hnow, hmod⟩ := ih (fun j hj => hl j (List.mem_cons_of_mem k hj)) (s.pinStep k)
    exact ⟨(State.leavesPin_pinStep hk hne s).trans hleaves, hnow.trans (s.pinStep_now k), hmod.trans (s.pinStep_mod k)⟩

theorem range_eq_append_cons (j n : Nat) : List.range (j + (n + 1)) = List.range j ++ j :: List.range' (j + 1) n := by
  rw [List.range_eq_range', ← List.range'_append_1, List.range'_succ, List.range_eq_range', Nat.zero_add]

/-- The pin scan, seen from a pin of the table, is the one step of that pin. -/
theorem State.pinScan_at (hidx : idx.toNat < s.pins.length) (hlen : s.pins.length ≤ 2 ^ 16) :
    ∃ v, v.now = s.now ∧ v.mod = s.mod ∧ s.LeavesPin idx v ∧ (v.pinStep idx.toNat).LeavesPin idx s.pinScan := by
  obtain ⟨n, hn⟩ := Nat.exists_eq_add_of_lt hidx
  have hscan : s.pinScan = (List.range' (idx.toNat + 1) n).foldl State.pinStep
      (((List.range idx.toNat).foldl State.pinStep s).pinStep idx.toNat) := by
    rw [State.pinScan, show s.cfg.m = idx.toNat + (n + 1) from hn, range_eq_append_cons, List.foldl_append, List.foldl_cons]
  obtain ⟨hbefore, hnow, hmod⟩ := State.foldl_pinStep_leavesPin (idx := idx) (List.range idx.toNat)
    (fun k hk => by have := List.mem_range.1 hk; omega) s
  rw [hscan]
  exact ⟨_, hnow, hmod, hbefore, (State.foldl_pinStep_leavesPin _ (fun k hk => by
    have := List.mem_range'_1.1 hk
    omega) _).1⟩

theorem State.clockSample_of_lt {c : Time} {rest : List Time} (h : s.clockIn = c :: rest) (hc : c.toNat < s.mod) :
    s.clockSample = c := by
  simp [State.clockSample, h, Nat.mod_eq_of_lt hc]

theorem State.exec_tick_of_idle (h : s.phase = .idle) : exec .tick s = .next (s.sampled.advance 0) := by
  simp only [exec, execTick, h, State.sampled]

/-- A slot scan that finds no slot to fire ends the tick (R204, R207). -/
theorem State.advance_of_none_due {start : Nat} (h : ∀ x ∈ s.slots, x.fires s.mod s.now = false) :
    s.advance start = s.pinScan.goIdle.respond .ok 0 := by
  have hnone : s.firstDue start = none := (s.firstDue_eq_none start).2 fun _ _ y hy => h y (List.mem_of_getElem? hy)
  simp only [State.advance, hnone]

/-- A slot that is not yet due does not fire. -/
theorem Slot.fires_eq_false {mod : Nat} {now : Time} {x : Slot} :
    x.fires mod now = false ↔ (x.occ = true → elapsed mod x.lastFired now < x.period) := by
  rw [← Bool.not_eq_true, Slot.fires_eq_true, not_and, BitVec.not_le]

/-- A TICK with no slot due, seen from one pin, is the step of that pin at the sampled time. -/
theorem State.exec_tick_at_pin {c : Time} {rest : List Time} (hok : s.cfg.Ok) (hphase : s.phase = .idle)
    (hclock : s.clockIn = c :: rest) (hc : c.toNat < s.mod)
    (hslots : ∀ x ∈ s.slots, x.occ = true → elapsed s.mod x.lastFired c < x.period) (hidx : idx.toNat < s.pins.length) :
    ∃ u v, exec .tick s = .next u ∧ v.now = c ∧ v.mod = s.mod ∧ s.LeavesPin idx v ∧
      (v.pinStep idx.toNat).LeavesPin idx u := by
  have hsample := State.clockSample_of_lt hclock hc
  have hquiet : ∀ x ∈ s.sampled.slots, x.fires s.sampled.mod s.sampled.now = false := by
    simpa [Slot.fires_eq_false, hsample] using hslots
  obtain ⟨_, ⟨_, hm⟩, _⟩ := hok
  have hlen : s.sampled.pins.length ≤ 2 ^ 16 := s.sampled_pins ▸ hm.trans (by decide)
  obtain ⟨v, hnow, hmod, hbefore, hafter⟩ := State.pinScan_at (s.sampled_pins ▸ hidx) hlen
  have hsampled : s.LeavesPin idx s.sampled := .of_emitted (by simp) s.sampled_out (by simp [Event.pin?])
  have hend : s.sampled.pinScan.LeavesPin idx (s.sampled.pinScan.goIdle.respond .ok 0) :=
    .of_emitted (by simp) rfl (by simp [Event.pin?])
  exact ⟨_, v, by rw [State.exec_tick_of_idle hphase, State.advance_of_none_due hquiet],
    by rw [hnow, s.sampled_now, hsample], by rw [hmod, s.sampled_mod], hsampled.trans hbefore, hafter.trans hend⟩

/-! ### The life of a pulse (R208) -/

section

variable {p : Pin} {j : Nat}

theorem State.pinStep_of_asserted (hp : s.pins[j]? = some p) (hreading : p.readingAt = 0) (hfired : p.firedAt ≠ 0) :
    s.pinStep j = s.pulseStep j p := by
  have hcapturing : ¬p.capturing = true := by simp [Pin.capturing, hreading]
  have hasserted : p.asserted = true := by simpa [Pin.asserted, hreading] using hfired
  simp only [State.pinStep, hp, if_neg hcapturing, if_pos hasserted]

theorem State.pulseStep_of_waiting (h : elapsed s.mod p.firedAt s.now < p.delay) : s.pulseStep j p = s := by
  have hdue : ¬due s.mod p.firedAt s.now p.delay = true := fun hd => BitVec.not_le.2 h (due_eq_true.1 hd)
  rw [State.pulseStep, if_neg hdue]

/-- The release: the inverse level goes out, and the record is idle (R208). -/
theorem State.pulseStep_of_due (hp : s.pins[j]? = some p) (h : p.delay ≤ elapsed s.mod p.firedAt s.now) :
    (s.pulseStep j p).pins[j]? = some ⟨0, p.readingAt, 0, p.targetValue⟩ ∧
      (s.pulseStep j p).out = s.out ++ [.ioWrite (BitVec.ofNat 16 j) (linv p.targetValue)] := by
  rw [State.pulseStep, if_pos (due_eq_true.2 h)]
  exact ⟨List.getElem?_set_self (List.getElem?_eq_some_iff.1 hp).1, rfl⟩

end

end

/-- Settles O36: the tick after the pulse is, at its pin, a pulse step that finds the pulse waiting or due. -/
theorem pulseIsReleasedWhenDue : Obligations.PulseIsReleasedWhenDue := by
  intro s idx d l p c rest hok hphase hnow hp hreading hclock hc hslots
  have hpulse := State.writesPin_pulse_level hp false l d
  obtain ⟨hrecord, ⟨hlen, _⟩, htslots, ⟨_, _, htphase, _⟩, ⟨htmod, _⟩, ⟨_, htclock, _⟩, _⟩ := id hpulse
  obtain ⟨u, v, htick, hvnow, hvmod, hbefore, hafter⟩ := State.exec_tick_at_pin (hpulse.cfg_eq ▸ hok)
    (htphase.trans hphase) (htclock.trans hclock) (htmod ▸ hc) (by rwa [htslots, htmod])
    (hlen ▸ (List.getElem?_eq_some_iff.1 hp).1)
  have hvrecord := hbefore.record.trans hrecord
  have helapsed : elapsed v.mod s.now v.now = elapsed s.mod s.now c := by rw [hvmod, hvnow, htmod]
  rw [State.pinStep_of_asserted hvrecord hreading hnow] at hafter
  by_cases hwait : elapsed s.mod s.now c < d
  · rw [State.pulseStep_of_waiting (helapsed ▸ hwait)] at hafter
    obtain ⟨hurecord, evs, hout, hevs⟩ := hbefore.trans hafter
    have hbusy := State.exec_isbusy_of_busy (hurecord.trans hrecord) (.inl hnow)
    exact ⟨_, u, evs, rfl, htick, hout, fun _ => ⟨fun l' hmem => hevs _ hmem rfl, _, hbusy, rfl⟩,
      fun hdue => absurd hwait (BitVec.not_lt.2 hdue)⟩
  · have hdue := BitVec.not_lt.1 hwait
    obtain ⟨hreleased, hwrite⟩ := State.pulseStep_of_due hvrecord (helapsed ▸ hdue)
    obtain ⟨_, before, hbout, _⟩ := hbefore
    obtain ⟨hurecord, after, haout, _⟩ := hafter
    have hidle := State.exec_isbusy_of_idle (hurecord.trans hreleased) (by simp [hreading])
    refine ⟨_, u, before ++ .ioWrite idx (~~~l) :: after, rfl, htick, ?_, (absurd · hwait),
      fun _ => ⟨by simp, _, hidle, rfl⟩⟩
    simp [haout, hwrite, hbout, linv_zeroExtend]

end Sys2Proof.Machine

end

/-! ## The rest of a tick (43_tick_dispatch.md R195 to R208)

TICK and DONE end in the same work: the slot scan, which dispatches one slot or ends the tick with the pin scan. What either
outcome leaves is said once, for any state the slot scan starts from. -/

section

namespace Sys2Proof.Machine

section

variable {s t u : State} {start i : Nat} {x : Slot}

/-! ### The outcome of the slot scan (R195) -/

/-- From `u` to `t` slot `i`, whose record was `x`, was dispatched (R197, R199, R251). -/
structure State.Dispatched (i : Nat) (x : Slot) (u t : State) : Prop where
  slot : t.slots[i]? = some { x with lastFired := u.now }
  others : SameSlotsBut i u t
  pins : t.pins = u.pins
  now : t.now = u.now
  quantum : t.quantum = u.quantum
  phase : t.phase = .handler
  cur : t.cur = BitVec.ofNat 16 i
  cfg : SameCfg u t
  inputs : SameInputs u t
  out : t.out = u.out ++ [.dispatch t.cur x.hid, .resp .ok 1]

theorem State.dispatched (hx : u.slots[i]? = some x) : State.Dispatched i x u (u.dispatch i x) := by
  obtain ⟨hlt, _⟩ := List.getElem?_eq_some_iff.1 hx
  rw [u.dispatch_eq i x]
  exact {
    slot := List.getElem?_set_self hlt
    others := ⟨List.length_set, fun _ hk => List.getElem?_set_ne hk.symm⟩
    pins := rfl
    now := rfl
    quantum := rfl
    phase := rfl
    cur := rfl
    cfg := ⟨rfl, rfl⟩
    inputs := ⟨rfl, rfl, rfl, rfl⟩
    out := rfl }

/-- A table of R9 has few enough entries for CUR to name each. -/
theorem State.Dispatched.cur_toNat (h : State.Dispatched i x u t) (hok : u.cfg.Ok) : t.cur.toNat = i := by
  obtain ⟨hi, _⟩ := List.getElem?_eq_some_iff.1 h.slot
  obtain ⟨⟨_, hn⟩, _⟩ := hok
  have hlt : i < 2 ^ 16 := calc
    i < u.slots.length := h.others.1 ▸ hi
    _ ≤ 256 := hn
    _ < 2 ^ 16 := by decide
  rw [h.cur, BitVec.toNat_ofNat, Nat.mod_eq_of_lt hlt]

/-- From `u` to `t` the tick ended with the pin scan: the records of `u` were scanned to those of `t` with events `evs`
(R204, R207). -/
structure State.TickEnded (evs : List Event) (u t : State) : Prop where
  slots : t.slots = u.slots
  scanned : PinsScanned u.mod u.now u.pins t.pins evs
  replies : RepliesTaken u.pins u.readIn t.readIn evs
  now : t.now = u.now
  quantum : t.quantum = u.quantum
  phase : t.phase = .idle
  cur : t.cur = u.cur
  cfg : SameCfg u t
  commands : t.commands = u.commands
  clockIn : t.clockIn = u.clockIn
  out : t.out = u.out ++ evs ++ [.resp .ok 0]

/-! ### One pin of the scan (R205 to R208) -/

section

variable {mod j : Nat} {now : Time} {r : Level} {p : Pin}

theorem linv_eq_ite (v : Val) : linv v = if v = 0 then 1 else 0 := by
  simp [linv, ← BitVec.toNat_inj]

theorem PinScanned.of_idle (hreading : p.readingAt = 0) (hfired : p.firedAt = 0) : PinScanned mod now j r p p [] := by
  constructor <;> simp [hreading, hfired]

theorem PinScanned.of_waiting (hreading : p.readingAt = 0) (hwait : elapsed mod p.firedAt now < p.delay) :
    PinScanned mod now j r p p [] := by
  constructor <;> simp [hreading, hwait]

theorem PinScanned.of_due (hreading : p.readingAt = 0) (hfired : p.firedAt ≠ 0) (hdue : p.delay ≤ elapsed mod p.firedAt now) :
    PinScanned mod now j r p { p with firedAt := 0, delay := 0 } [.ioWrite (BitVec.ofNat 16 j) (linv p.targetValue)] where
  idle _ h := absurd h hfired
  waiting _ _ h := absurd hdue (BitVec.not_le.2 h)
  released _ _ _ := ⟨rfl, by rw [linv_eq_ite]⟩
  read h := absurd hreading h
  leading h := absurd hreading h
  trailing h := absurd hreading h
  noEdge h := absurd hreading h

theorem PinScanned.of_reading (hreading : p.readingAt ≠ 0) :
    PinScanned mod now j r p (p.observe now r) [.ioRead (BitVec.ofNat 16 j) r] where
  idle h := absurd h hreading
  waiting h := absurd h hreading
  released h := absurd h hreading
  read _ := rfl
  leading _ hfired hlevel := by rw [Pin.observe, if_pos hfired, levelVal, if_pos hlevel]
  trailing _ hfired hdelay hlevel := by rw [Pin.observe, if_neg hfired, linv_eq_ite, if_pos ⟨hdelay, hlevel⟩]
  noEdge _ hlead htrail := by
    by_cases hfired : p.firedAt = 0
    · rw [Pin.observe, if_pos hfired, levelVal, if_neg (hlead hfired)]
    · rw [Pin.observe, if_neg hfired, linv_eq_ite, if_neg fun ⟨hdelay, hlevel⟩ => htrail hfired hdelay hlevel]

theorem State.pinStep_of_capturing (hp : u.pins[j]? = some p) (hreading : p.readingAt ≠ 0) :
    u.pinStep j = u.captureStep j p := by
  have hcapturing : p.capturing = true := by simpa [Pin.capturing] using hreading
  simp only [State.pinStep, hp, if_pos hcapturing]

theorem State.pinStep_of_idle (hp : u.pins[j]? = some p) (hreading : p.readingAt = 0) (hfired : p.firedAt = 0) :
    u.pinStep j = u := by
  simp [State.pinStep, hp, Pin.capturing, Pin.asserted, hreading, hfired]

/-- A pin that is not captured takes no reply, if its events show none. -/
theorem RepliesTaken.of_not_reading (hreading : p.readingAt = 0) (l : List Level) {evs : List Event}
    (hevs : evs.filterMap Event.reply? = []) : RepliesTaken [p] l l evs := by
  intro given rest hl hlen
  obtain rfl : given = [] := by simpa [hreading] using hlen
  exact ⟨hl, hevs⟩

/-- A captured pin takes the reply it shows. -/
theorem RepliesTaken.of_reading (hreading : p.readingAt ≠ 0) (u : State) (pin : Idx) :
    RepliesTaken [p] u.readIn u.readIn.tail [.ioRead pin u.readReply] := by
  intro given rest hl hlen
  have hone : [p].countP (fun p => p.readingAt != 0) = 1 := List.countP_cons_of_pos (bne_iff_ne.2 hreading)
  obtain ⟨r, rfl⟩ := List.length_eq_one_iff.1 (hlen.trans hone)
  simp [hl, State.readReply, Event.reply?]

/-- One pin step scans its record and takes the replies it shows (R205). -/
theorem State.pinStep_scans (hp : u.pins[j]? = some p) :
    ∃ q es, (u.pinStep j).pins = u.pins.set j q ∧ (u.pinStep j).out = u.out ++ es ∧
      PinScanned u.mod u.now j u.readReply p q es ∧ RepliesTaken [p] u.readIn (u.pinStep j).readIn es := by
  obtain ⟨hlt, hget⟩ := List.getElem?_eq_some_iff.1 hp
  have hsame : u.pins = u.pins.set j p := by rw [← hget, List.set_getElem_self]
  by_cases hreading : p.readingAt = 0
  · by_cases hfired : p.firedAt = 0
    · rw [State.pinStep_of_idle hp hreading hfired]
      exact ⟨p, [], hsame, by simp, .of_idle hreading hfired, .of_not_reading hreading _ rfl⟩
    rw [State.pinStep_of_asserted hp hreading hfired]
    by_cases hwait : elapsed u.mod p.firedAt u.now < p.delay
    · rw [State.pulseStep_of_waiting hwait]
      exact ⟨p, [], hsame, by simp, .of_waiting hreading hwait, .of_not_reading hreading _ rfl⟩
    · have hdue := BitVec.not_lt.1 hwait
      rw [State.pulseStep, if_pos (due_eq_true.2 hdue)]
      exact ⟨_, _, rfl, rfl, .of_due hreading hfired hdue, .of_not_reading hreading _ rfl⟩
  · rw [State.pinStep_of_capturing hp hreading]
    exact ⟨_, _, by simp [State.captureStep], by simp [State.captureStep], .of_reading hreading,
      by simpa [State.captureStep] using RepliesTaken.of_reading hreading u (BitVec.ofNat 16 j)⟩

/-- The events of one pin's scan are of that pin. -/
theorem PinScanned.pin_of_mem {q : Pin} {es : List Event} (h : PinScanned mod now j r p q es) :
    ∀ e ∈ es, e.pin? = some (BitVec.ofNat 16 j) := by
  by_cases hreading : p.readingAt = 0
  · by_cases hfired : p.firedAt = 0
    · simp [(h.idle hreading hfired).2]
    by_cases hwait : elapsed mod p.firedAt now < p.delay
    · simp [(h.waiting hreading hfired hwait).2]
    · simp [(h.released hreading hfired (BitVec.not_lt.1 hwait)).2, Event.pin?]
  · simp [h.read hreading, Event.pin?]

end

/-! ### The pin scan (R204) -/

section

variable {mod : Nat} {now : Time} {ps qs : List Pin} {evs : List Event}

theorem PinsScanned.nil : PinsScanned mod now [] [] [] := ⟨rfl, [], [], by simp⟩

theorem getElem?_of_concat {α : Type} {l : List α} {a b : α} {j : Nat} (h : (l ++ [a])[j]? = some b) (hj : j ≠ l.length) :
    l[j]? = some b := by
  obtain ⟨hlt, _⟩ := List.getElem?_eq_some_iff.1 h
  rw [List.length_append, List.length_singleton] at hlt
  rwa [List.getElem?_append_left (by omega)] at h

/-- The scan of the next pin goes at the end. -/
theorem PinsScanned.concat (h : PinsScanned mod now ps qs evs) {r : Level} {p q : Pin} {es : List Event}
    (hpin : PinScanned mod now ps.length r p q es) : PinsScanned mod now (ps ++ [p]) (qs ++ [q]) (evs ++ es) := by
  obtain ⟨hlen, per, rs, hper, hrs, rfl, hscan⟩ := h
  refine ⟨by simp [hlen], per ++ [es], rs ++ [r], by simp [hper], by simp [hrs], by simp, ?_⟩
  intro j p' q' r' es' hp' hq' hr' hes'
  by_cases hj : j = ps.length
  · subst hj
    obtain rfl : p = p' := by simpa using hp'
    obtain rfl : q = q' := by simpa [← hlen] using hq'
    obtain rfl : r = r' := by simpa [← hrs] using hr'
    obtain rfl : es = es' := by simpa [← hper] using hes'
    exact hpin
  · exact hscan j p' q' r' es' (getElem?_of_concat hp' hj) (getElem?_of_concat hq' (hlen ▸ hj))
      (getElem?_of_concat hr' (hrs ▸ hj)) (getElem?_of_concat hes' (hper ▸ hj))

theorem RepliesTaken.nil (l : List Level) : RepliesTaken [] l l [] := by
  intro given rest hl hlen
  obtain rfl : given = [] := by simpa using hlen
  exact ⟨hl, rfl⟩

/-- Replies taken by some pins, then by more, are those taken by all of them. -/
theorem RepliesTaken.append {ps' : List Pin} {a b c : List Level} {evs' : List Event} (h : RepliesTaken ps a b evs)
    (k : RepliesTaken ps' b c evs') : RepliesTaken (ps ++ ps') a c (evs ++ evs') := by
  intro given rest ha hlen
  rw [List.countP_append] at hlen
  obtain ⟨first, second, rfl, hfirst⟩ : ∃ first second, given = first ++ second ∧
      first.length = ps.countP fun p => p.readingAt != 0 :=
    ⟨_, _, (List.take_append_drop _ given).symm, List.length_take_of_le (by omega)⟩
  rw [List.append_assoc] at ha
  rw [List.length_append, hfirst, Nat.add_left_cancel_iff] at hlen
  obtain ⟨hb, hevs⟩ := h first (second ++ rest) ha hfirst
  obtain ⟨hc, hevs'⟩ := k second rest hb hlen
  exact ⟨hc, by rw [List.filterMap_append, hevs, hevs']⟩

/-- Part of the pin scan from `s` to `u`: the records `ps` were scanned to `qs`, those of `rest` are to come. -/
structure State.ScannedPart (ps qs rest : List Pin) (s u : State) : Prop where
  before : s.pins = ps ++ rest
  after : u.pins = qs ++ rest
  mod : u.mod = s.mod
  now : u.now = s.now
  work : ∃ evs, u.out = s.out ++ evs ∧ PinsScanned s.mod s.now ps qs evs ∧ RepliesTaken ps s.readIn u.readIn evs

theorem State.ScannedPart.none (s : State) : State.ScannedPart [] [] s.pins s s :=
  ⟨rfl, rfl, rfl, rfl, [], by simp, .nil, .nil s.readIn⟩

/-- The step of the next pin. -/
theorem State.ScannedPart.pinStep {p : Pin} {rest : List Pin} (h : State.ScannedPart ps qs (p :: rest) s u) :
    ∃ q, State.ScannedPart (ps ++ [p]) (qs ++ [q]) rest s (u.pinStep ps.length) := by
  obtain ⟨hbefore, hafter, hmod, hnow, evs, hout, hscanned, hreplies⟩ := h
  have hlen : qs.length = ps.length := hscanned.1
  have hp : u.pins[ps.length]? = some p := by simp [hafter, ← hlen]
  obtain ⟨q, es, hpins, hstep, hpin, hreply⟩ := State.pinStep_scans hp
  rw [hmod, hnow] at hpin
  have hrecords : (u.pinStep ps.length).pins = qs ++ [q] ++ rest := by
    rw [hpins, hafter, ← hlen]
    simp
  exact ⟨q, by simp [hbefore], hrecords, (u.pinStep_mod _).trans hmod, (u.pinStep_now _).trans hnow,
    evs ++ es, by rw [hstep, hout, List.append_assoc], hscanned.concat hpin, hreplies.append hreply⟩

/-- The steps of all the pins to come. -/
theorem State.ScannedPart.foldl_pinStep {rest : List Pin} (h : State.ScannedPart ps qs rest s u) :
    ∃ qs', State.ScannedPart (ps ++ rest) qs' [] s ((List.range' ps.length rest.length).foldl State.pinStep u) := by
  induction rest generalizing ps qs u with
  | nil => exact ⟨qs, by simpa using h⟩
  | cons p rest ih =>
    obtain ⟨q, hq⟩ := h.pinStep
    obtain ⟨qs', hrest⟩ := ih hq
    exact ⟨qs', by simpa [List.range'_succ] using hrest⟩

/-- The pin scan scans every record once, in pin order. -/
theorem State.pinScan_scans (u : State) : ∃ evs, u.pinScan.out = u.out ++ evs ∧
    PinsScanned u.mod u.now u.pins u.pinScan.pins evs ∧ RepliesTaken u.pins u.readIn u.pinScan.readIn evs := by
  obtain ⟨qs, hscan⟩ := (State.ScannedPart.none u).foldl_pinStep
  rw [List.nil_append, List.length_nil, ← List.range_eq_range'] at hscan
  obtain ⟨_, hafter, _, _, hwork⟩ := hscan
  rw [List.append_nil] at hafter
  exact hafter ▸ hwork

/-- Every event of the pin scan is of the I/O driver. -/
theorem PinsScanned.pin_isSome_of_mem (h : PinsScanned mod now ps qs evs) : ∀ e ∈ evs, e.pin?.isSome := by
  obtain ⟨hlen, per, rs, hper, hrs, rfl, hscan⟩ := h
  intro e he
  obtain ⟨es, hes, he⟩ := List.mem_flatten.1 he
  obtain ⟨j, hj, rfl⟩ := List.mem_iff_getElem.1 hes
  have hpin := hscan j ps[j] qs[j] rs[j] per[j] (List.getElem?_eq_getElem _) (List.getElem?_eq_getElem _)
    (List.getElem?_eq_getElem _) (List.getElem?_eq_getElem _)
  simp [hpin.pin_of_mem e he]

end

theorem State.tickEnded (u : State) : ∃ evs, State.TickEnded evs u (u.pinScan.goIdle.respond .ok 0) := by
  obtain ⟨evs, hout, hscanned, hreplies⟩ := u.pinScan_scans
  obtain ⟨hslots, hnow, hquantum, _, hcur, hmod, htpm, hcommands, hclockIn, _⟩ := u.pinScan_frame
  exact ⟨evs, {
    slots := hslots
    scanned := hscanned
    replies := hreplies
    now := hnow
    quantum := hquantum
    phase := rfl
    cur := hcur
    cfg := ⟨hmod, htpm⟩
    commands := hcommands
    clockIn := hclockIn
    out := congrArg (· ++ [Event.resp .ok 0]) hout }⟩

theorem State.TickEnded.pin_or_resp_of_mem {evs : List Event} (h : State.TickEnded evs u t) :
    ∀ e ∈ evs ++ [Event.resp .ok 0], e.pin?.isSome ∨ e = .resp .ok 0 := fun _ he =>
  (List.mem_append.1 he).imp (h.scanned.pin_isSome_of_mem _) List.mem_singleton.1

/-! ### Which outcome it is -/

theorem State.advance_of_firstDue (h : u.firstDue start = some (i, x)) : State.Dispatched i x u (u.advance start) := by
  obtain ⟨_, hx, _⟩ := (u.firstDue_eq_some start i x).1 h
  simpa only [State.advance, h] using State.dispatched hx

theorem State.advance_of_none (h : u.firstDue start = none) : ∃ evs, State.TickEnded evs u (u.advance start) := by
  simpa only [State.advance, h] using u.tickEnded

/-- The rest of a tick dispatches the first slot that fires, or ends the tick (R195). -/
theorem State.advance_outcome (u : State) (start : Nat) :
    (∃ i x, u.firstDue start = some (i, x) ∧ State.Dispatched i x u (u.advance start)) ∨
      (∃ evs, State.TickEnded evs u (u.advance start)) := by
  cases h : u.firstDue start with
  | some found => exact .inl ⟨found.1, found.2, rfl, State.advance_of_firstDue h⟩
  | none => exact .inr (State.advance_of_none h)

theorem State.firstDue_of_lowest (hstart : start ≤ i) (hx : u.slots[i]? = some x) (hocc : x.occ = true)
    (hdue : x.period ≤ elapsed u.mod x.lastFired u.now)
    (hlower : ∀ k y, start ≤ k → k < i → u.slots[k]? = some y → y.occ = true → elapsed u.mod y.lastFired u.now < y.period) :
    u.firstDue start = some (i, x) :=
  (u.firstDue_eq_some start i x).2 ⟨hstart, hx, Slot.fires_eq_true.2 ⟨hocc, hdue⟩,
    fun k hk hki y hy => Slot.fires_eq_false.2 (hlower k y hk hki hy)⟩

theorem State.firstDue_of_none_due
    (h : ∀ k y, start ≤ k → u.slots[k]? = some y → y.occ = true → elapsed u.mod y.lastFired u.now < y.period) :
    u.firstDue start = none :=
  (u.firstDue_eq_none start).2 fun k hk y hy => Slot.fires_eq_false.2 (h k y hk hy)

/-- The slots below the start of a scan stay (R198). -/
theorem State.advance_slots_below {k : Nat} (hk : k < start) : (u.advance start).slots[k]? = u.slots[k]? := by
  rcases u.advance_outcome start with ⟨i, x, hdue, hdisp⟩ | ⟨evs, hend⟩
  · obtain ⟨hi, _⟩ := (u.firstDue_eq_some start i x).1 hdue
    exact hdisp.others.2 k (by omega)
  · rw [hend.slots]

end

end Sys2Proof.Machine

end

/-! ## TICK and DONE (43_tick_dispatch.md R190 to R211)

Each obligation reads the outcome of the slot scan at the state that TICK or DONE starts it from: the sampled state, or the state
in which a one-shot is released. -/

section

namespace Sys2Proof.Machine

/-! ### The states TICK and DONE start the scan from (R190, R200) -/

section

variable {s t : State} {x : Slot} {c : Time} {rest : List Time}

theorem State.exec_tick_of_handler (h : s.phase = .handler) : exec .tick s = .next (s.raise .ePhase) := by
  simp only [exec, execTick, h]

theorem State.exec_done_of_idle (h : s.phase = .idle) : exec .done s = .next (s.raise .ePhase) := by
  simp only [exec, execDone, h]

theorem State.exec_done_of_handler (h : s.phase = .handler) (hx : s.slots[s.cur.toNat]? = some x) :
    exec .done s = .next ((s.releaseOneShot x).advance (s.cur.toNat + 1)) := by
  simp only [exec, execDone, h, hx]

/-- A DONE that ends a handler released a slot of the table and went on above it. -/
theorem State.exec_done_next (hphase : s.phase = .handler) (h : exec .done s = .next t) :
    ∃ x, s.slots[s.cur.toNat]? = some x ∧ t = (s.releaseOneShot x).advance (s.cur.toNat + 1) := by
  cases hx : s.slots[s.cur.toNat]? with
  | none => simp [exec, execDone, hphase, hx] at h
  | some x => exact ⟨x, rfl, Host.Outcome.next.inj (h.symm.trans (State.exec_done_of_handler hphase hx))⟩

theorem Slot.release_eq (x : Slot) :
    { x with occ := x.occ && x.rep } = if x.rep = true then x else { x with occ := false } := by
  cases x with
  | mk occ hid period lastFired rep => cases rep <;> simp

/-- The slot that DONE ends is freed if it is a one-shot; everything else stays (R201). -/
theorem State.releaseOneShot_writes (hx : s.slots[s.cur.toNat]? = some x) :
    WritesSlot s.cur.toNat (if x.rep then x else { x with occ := false }) [] s (s.releaseOneShot x) :=
  x.release_eq ▸ State.releaseOneShot_frame hx

/-- The scan above CUR sees the table as it was before the release (R203). -/
theorem State.firstDue_releaseOneShot (hx : s.slots[s.cur.toNat]? = some x) :
    (s.releaseOneShot x).firstDue (s.cur.toNat + 1) = s.firstDue (s.cur.toNat + 1) := by
  obtain ⟨_, ⟨_, hother⟩, _, ⟨hnow, _⟩, ⟨hmod, _⟩, _⟩ := State.releaseOneShot_writes hx
  have hdrop : (s.releaseOneShot x).slots.drop (s.cur.toNat + 1) = s.slots.drop (s.cur.toNat + 1) :=
    List.ext_getElem? fun k => by rw [List.getElem?_drop, List.getElem?_drop, hother _ (by omega)]
  rw [State.firstDue, State.firstDue, hdrop, hnow, hmod]

/-- The state in which a TICK that samples `c` starts its scan. -/
theorem State.sampled_of_clockIn (hclock : s.clockIn = c :: rest) (hc : c.toNat < s.mod) :
    s.sampled = { s with clockIn := rest, out := s.out ++ [.clock c], quantum := elapsed s.mod s.now c, now := c } := by
  simp [State.sampled, State.clockSample_of_lt hclock hc, State.dropSample, hclock, State.emit, State.setTime]

end

/-! ### The handler's stamp (R197, R142 (c)) -/

section

variable {s t u : State} {i : Nat} {x : Slot} {evs : List Event}

/-- The stamp speaks of the slot table, NOW, PHASE and CUR alone. -/
theorem State.Stamped.of_frame (hs : s.Stamped) (hsc : SameScalars s t) (hslots : t.slots = s.slots) : t.Stamped := by
  obtain ⟨hnow, _, hphase, hcur⟩ := hsc
  rwa [State.Stamped, hnow, hphase, hcur, hslots]

/-- A write of one slot keeps the stamp, if the record written to the handler's slot holds it. -/
theorem WritesSlot.stamped (h : WritesSlot i x evs s t) (hs : s.Stamped)
    (hx : s.phase = .handler → s.cur.toNat = i → x.lastFired = s.now) : t.Stamped := by
  obtain ⟨hself, ⟨_, hother⟩, _, ⟨hnow, _, hphase, hcur⟩, _⟩ := h
  rw [State.Stamped, hnow, hphase, hcur]
  intro hhandler
  by_cases hi : s.cur.toNat = i
  · rw [hi, hself, Option.map_some, hx hhandler hi]
  · rw [hother _ hi]
    exact hs hhandler

/-- The handler's slot, named by its record, holds the tick time. -/
theorem State.Stamped.lastFired_eq (hs : s.Stamped) (hphase : s.phase = .handler) (hx : s.slots[s.cur.toNat]? = some x) :
    x.lastFired = s.now := by
  simpa [hx] using hs hphase

theorem State.Dispatched.stamped (h : State.Dispatched i x u t) (hok : u.cfg.Ok) : t.Stamped := fun _ => by
  rw [h.cur_toNat hok, h.slot, h.now]
  rfl

/-- A scan stamps the slot it dispatches, or leaves no handler outstanding. -/
theorem State.stamped_advance (hok : u.cfg.Ok) (start : Nat) : (u.advance start).Stamped := by
  rcases u.advance_outcome start with ⟨i, x, _, hdisp⟩ | ⟨evs, hend⟩
  · exact hdisp.stamped hok
  · exact fun hphase => nomatch hend.phase.symm.trans hphase

/-- Every instruction keeps the stamp. -/
theorem Effect.stamped {i : Instr} (h : Effect s i t) (hok : s.cfg.Ok) (hs : s.Stamped) : t.Stamped := by
  cases h with
  | answer hw =>
    obtain ⟨hslots, _, hsc, _⟩ := hw
    exact hs.of_frame hsc hslots
  | registration _ hw | periodChange _ hw => exact hw.stamped hs fun _ _ => rfl
  | @slotClear _ _ x _ hx hw => exact hw.stamped hs fun hphase hcur => hs.lastFired_eq (x := x) hphase (hcur ▸ hx)
  | pulse _ _ hw | capture _ hw | pinClear _ _ hw =>
    obtain ⟨_, _, hslots, hsc, _⟩ := hw
    exact hs.of_frame hsc hslots
  | tick _ => exact State.stamped_advance (s.sampled_cfg ▸ hok) 0
  | done _ hx => exact State.stamped_advance ((State.releaseOneShot_frame hx).cfg_eq ▸ hok) _

end

/-- Settles O54: only a slot write can touch the stamp, and every slot write stores NOW or keeps `lastFired`. -/
theorem stepKeepsTheHandlerStamp : Obligations.StepKeepsTheHandlerStamp := by
  rintro s t ⟨hok, _⟩ hs h
  have haccept : s.accept.Stamped := hs
  rcases step_effect h with rfl | ⟨i, hi⟩ | ⟨hslots, _, hsc, _⟩
  · exact hs
  · exact hi.stamped hok haccept
  · exact haccept.of_frame hsc hslots

/-! ### TICK (R190 to R199) -/

/-- The scan takes no command and samples no clock (R192). -/
theorem State.advance_unclocked (u : State) (start : Nat) : (u.advance start).commands = u.commands ∧
    ∃ evs, (u.advance start).out = u.out ++ evs ∧ ∀ c, Event.clock c ∉ evs := by
  rcases u.advance_outcome start with ⟨i, x, _, h⟩ | ⟨evs, h⟩
  · exact ⟨h.inputs.1, _, h.out, by simp⟩
  · refine ⟨h.commands, evs ++ [.resp .ok 0], by rw [h.out, List.append_assoc], fun c hc => ?_⟩
    rcases h.pin_or_resp_of_mem _ hc with hpin | hresp
    · exact nomatch hpin
    · exact nomatch hresp

/-- Settles O37: the sample stands in NOW before the scan, which leaves NOW and QUANTUM and samples no more. -/
theorem tickTakesOneSample : Obligations.TickTakesOneSample := by
  intro s hphase h0 _
  have hadv := s.sampled.advance_advanced 0
  obtain ⟨hcommands, evs, hout, hclock⟩ := s.sampled.advance_unclocked 0
  have hnow : (s.sampled.advance 0).now = s.clockSample := hadv.now
  have hcfg : (s.sampled.advance 0).cfg = s.cfg := hadv.cfg.trans s.sampled_cfg
  refine ⟨_, evs, State.exec_tick_of_idle hphase, ?_, ?_, hadv.clockIn.trans s.dropSample_clockIn,
    hcommands.trans s.dropSample_commands, ⟨congrArg Config.Cfg.mod hcfg, congrArg Config.Cfg.tpm hcfg⟩, ?_, hclock, ?_⟩
  · rw [hnow]
    exact s.clockSample_toNat_lt h0
  · rw [hadv.quantum, s.sampled_quantum, hnow]
  · rw [hout, s.sampled_out, hnow, List.append_assoc, List.singleton_append]
  · intro c hc hlt
    obtain ⟨rest, hin⟩ := List.head?_eq_some_iff.1 hc
    rw [hnow, State.clockSample_of_lt hin hlt]

/-- Settles O39: the scan from the sampled state finds slot `i` first, and dispatches it. -/
theorem tickDispatchesTheLowestDueSlot : Obligations.TickDispatchesTheLowestDueSlot := by
  intro s c rest i x hok hphase hclock hc hx hocc hdue hlower
  have hsampled := State.sampled_of_clockIn hclock hc
  have hfirst : s.sampled.firstDue 0 = some (i, x) := by
    rw [hsampled]
    exact State.firstDue_of_lowest i.zero_le hx hocc hdue fun k y _ => hlower k y
  have h := State.advance_of_firstDue hfirst
  have hcur := h.cur_toNat (s.sampled_cfg ▸ hok)
  rw [hsampled] at h hcur
  obtain ⟨hcommands, hclockIn, hreadIn, hdraws⟩ := h.inputs
  exact ⟨_, hsampled ▸ State.exec_tick_of_idle hphase, h.slot, h.others, h.pins, h.now, h.quantum, h.phase, hcur, h.cfg,
    hcommands, hclockIn, hreadIn, hdraws, by rw [h.out, List.append_assoc, List.singleton_append]⟩

/-- Settles O40: the scan from the sampled state finds no slot, and scans the pins. -/
theorem tickWithNothingDueScansThePins : Obligations.TickWithNothingDueScansThePins := by
  intro s c rest _ hphase hclock hc hquiet
  have hsampled := State.sampled_of_clockIn hclock hc
  have hnone : s.sampled.firstDue 0 = none := by
    rw [hsampled]
    exact State.firstDue_of_none_due fun k y _ hy => hquiet y (List.mem_of_getElem? hy)
  obtain ⟨evs, h⟩ := State.advance_of_none hnone
  rw [hsampled] at h
  exact ⟨_, evs, hsampled ▸ State.exec_tick_of_idle hphase, h.slots, h.scanned, h.replies, h.now, h.quantum, h.phase, h.cur,
    h.cfg, h.commands, h.clockIn, by simp [h.out]⟩

/-! ### DONE (R200 to R211) -/

/-- Settles O41: the release writes the slot, and the scan starts above it. -/
theorem doneReleasesAOneShot : Obligations.DoneReleasesAOneShot := by
  intro s x hphase hx
  obtain ⟨hreleased, _⟩ := State.releaseOneShot_writes hx
  exact ⟨_, State.exec_done_of_handler hphase hx, (State.advance_slots_below s.cur.toNat.lt_succ_self).trans hreleased⟩

/-- Settles O42: the release writes CUR's slot alone, and the scan dispatches slot `i` alone. -/
theorem doneDispatchesTheNextDueSlot : Obligations.DoneDispatchesTheNextDueSlot := by
  intro s x y i hok hphase hx hi hy hocc hdue hlower
  have hrelease := State.releaseOneShot_writes hx
  have h := State.advance_of_firstDue
    ((State.firstDue_releaseOneShot hx).trans (State.firstDue_of_lowest hi hy hocc hdue hlower))
  have hcur := h.cur_toNat (hrelease.cfg_eq ▸ hok)
  obtain ⟨hreleased, ⟨hlen, hother⟩, hpins, ⟨hnow, hquantum, _⟩, ⟨hmod, htpm⟩, ⟨hcommands, hclockIn, hreadIn, hdraws⟩, hout⟩ :=
    hrelease
  obtain ⟨htlen, htother⟩ := h.others
  obtain ⟨htmod, httpm⟩ := h.cfg
  obtain ⟨htcommands, htclockIn, htreadIn, htdraws⟩ := h.inputs
  exact ⟨_, State.exec_done_of_handler hphase hx, hnow ▸ h.slot, (htother _ hi.ne).trans hreleased,
    fun k hk hkcur => (htother k hk).trans (hother k hkcur), htlen.trans hlen, h.pins.trans hpins, h.now.trans hnow,
    h.quantum.trans hquantum, h.phase, hcur, ⟨htmod.trans hmod, httpm.trans htpm⟩,
    ⟨htcommands.trans hcommands, htclockIn.trans hclockIn, htreadIn.trans hreadIn, htdraws.trans hdraws⟩,
    by rw [h.out, hout, List.append_nil]⟩

/-- Settles O43: the release writes CUR's slot alone, and the scan ends the tick. -/
theorem doneWithNothingDueScansThePins : Obligations.DoneWithNothingDueScansThePins := by
  intro s x hphase hx hquiet
  obtain ⟨hreleased, ⟨hlen, hother⟩, hpins, ⟨hnow, hquantum, _, hcur⟩, ⟨hmod, htpm⟩, ⟨hcommands, hclockIn, hreadIn, _⟩, hout⟩ :=
    State.releaseOneShot_writes hx
  obtain ⟨evs, h⟩ := State.advance_of_none ((State.firstDue_releaseOneShot hx).trans (State.firstDue_of_none_due hquiet))
  have hscanned := h.scanned
  have hreplies := h.replies
  obtain ⟨htmod, httpm⟩ := h.cfg
  rw [hmod, hnow, hpins] at hscanned
  rw [hpins, hreadIn] at hreplies
  exact ⟨_, evs, State.exec_done_of_handler hphase hx, by rw [h.slots, hreleased],
    ⟨by rw [h.slots, hlen], fun k hk => by rw [h.slots, hother k hk]⟩, hscanned, hreplies, h.now.trans hnow,
    h.quantum.trans hquantum, h.phase, h.cur.trans hcur, ⟨htmod.trans hmod, httpm.trans htpm⟩, h.commands.trans hcommands,
    h.clockIn.trans hclockIn, by rw [h.out, hout, List.append_nil]⟩

/-! ### What is dispatched (R196) -/

section

variable {s t u : State} {start : Nat} {evs : List Event} {k : Idx} {hid : Word}

/-- The slot whose dispatch is among the events of a scan from `start`: it fired, and is the one dispatched. -/
theorem State.dispatched_of_mem_advance (hok : u.cfg.Ok) (hout : (u.advance start).out = u.out ++ evs)
    (hmem : Event.dispatch k hid ∈ evs) : ∃ x, u.firstDue start = some (k.toNat, x) ∧ x.hid = hid ∧
      State.Dispatched k.toNat x u (u.advance start) := by
  rcases u.advance_outcome start with ⟨i, x, hdue, hdisp⟩ | ⟨evs', hend⟩
  · obtain rfl : evs = _ := List.append_cancel_left (hout.symm.trans hdisp.out)
    obtain ⟨rfl, rfl⟩ : k = (u.advance start).cur ∧ hid = x.hid := by simpa using hmem
    have hcur := hdisp.cur_toNat hok
    exact ⟨x, hcur ▸ hdue, rfl, hcur ▸ hdisp⟩
  · rw [hend.out, List.append_assoc] at hout
    obtain rfl := List.append_cancel_left hout
    rcases hend.pin_or_resp_of_mem _ hmem with hpin | hresp
    · exact nomatch hpin
    · exact nomatch hresp

/-- A dispatch among the events of a TICK is of a slot that the scan of the sampled state finds (R195). -/
theorem State.dispatched_of_mem_tick (hok : s.cfg.Ok) (hexec : exec .tick s = .next t) (hout : t.out = s.out ++ evs)
    (hmem : Event.dispatch k hid ∈ evs) : ∃ x, s.sampled.firstDue 0 = some (k.toNat, x) ∧ x.hid = hid ∧
      State.Dispatched k.toNat x s.sampled t := by
  cases hphase : s.phase with
  | handler =>
    cases hexec.symm.trans (State.exec_tick_of_handler hphase)
    obtain rfl : _ = evs := List.append_cancel_left hout
    simp at hmem
  | idle =>
    cases hexec.symm.trans (State.exec_tick_of_idle hphase)
    obtain ⟨_, evs', hadv, _⟩ := s.sampled.advance_unclocked 0
    obtain rfl : .clock s.clockSample :: evs' = evs := List.append_cancel_left (as := s.out) (by
      rw [← hout, hadv, s.sampled_out, List.append_assoc, List.singleton_append])
    exact State.dispatched_of_mem_advance (s.sampled_cfg ▸ hok) hadv (by simpa using hmem)

/-- A dispatch among the events of a DONE is of a slot above CUR (R200). -/
theorem State.dispatched_of_mem_done (hok : s.cfg.Ok) (hexec : exec .done s = .next t) (hout : t.out = s.out ++ evs)
    (hmem : Event.dispatch k hid ∈ evs) : ∃ x y, s.slots[s.cur.toNat]? = some x ∧
      s.firstDue (s.cur.toNat + 1) = some (k.toNat, y) ∧ y.hid = hid ∧ State.Dispatched k.toNat y (s.releaseOneShot x) t := by
  cases hphase : s.phase with
  | idle =>
    cases hexec.symm.trans (State.exec_done_of_idle hphase)
    obtain rfl : _ = evs := List.append_cancel_left hout
    simp at hmem
  | handler =>
    obtain ⟨x, hx, rfl⟩ := State.exec_done_next hphase hexec
    rw [← s.releaseOneShot_out x] at hout
    obtain ⟨y, hdue, hhid, hdisp⟩ :=
      State.dispatched_of_mem_advance ((State.releaseOneShot_frame hx).cfg_eq ▸ hok) hout hmem
    exact ⟨x, y, hx, (State.firstDue_releaseOneShot hx).symm.trans hdue, hhid, hdisp⟩

theorem State.pulse_emits_no_dispatch (s : State) (ms an : Bool) (val : Val) (idx : Idx) (a : Word) :
    ∃ evs, (s.pulse ms an val idx a).out = s.out ++ evs ∧ ∀ k h, Event.dispatch k h ∉ evs := by
  rcases s.pulse_cases ms an val idx a with ⟨_, h⟩ | ⟨p, _, h⟩ <;> rw [h]
  · exact ⟨[.resp .eIndex 0], rfl, by simp⟩
  · exact ⟨[.ioSetOutput idx, assertEvent an idx val, .resp .ok 0], by simp, by simp [assertEvent_ne_dispatch]⟩

/-- Whatever was emitted before, only TICK and DONE emit a dispatch (R199). -/
theorem exec_emits_no_dispatch {i : Instr} (htick : i ≠ .tick) (hdone : i ≠ .done) (hexec : exec i s = .next t) :
    ∃ evs, t.out = s.out ++ evs ∧ ∀ k h, Event.dispatch k h ∉ evs := by
  cases i with
  | tick => exact absurd rfl htick
  | done => exact absurd rfl hdone
  | regp idx a b | regpAuto a b | regpMs idx a b | regpMsAuto a b
  | reg1 idx a b | reg1Auto a b | reg1Ms idx a b | reg1MsAuto a b =>
    cases hexec
    rcases s.register_cases _ _ _ a b with ⟨st, _, h⟩ | ⟨n, _, h⟩ <;> exact ⟨_, congrArg State.out h, by simp⟩
  | pulse val idx a | pulseMs val idx a | pulseA val idx a | pulseMsA val idx a =>
    cases hexec
    exact s.pulse_emits_no_dispatch _ _ val idx a
  | elapsed a b =>
    cases hexec
    exact ⟨_, rfl, by simp⟩
  | chgp idx a | clrs idx | free | isbusy idx | clrp idx | rd idx =>
    simp only [exec, execChgp, execClrs, execFree, execIsbusy, execClrp, execRd] at hexec
    split at hexec <;> cases hexec <;> exact ⟨_, rfl, by simp⟩
  | pulsein val idx | clrpF val idx =>
    simp only [exec, execPulsein, execClrpF] at hexec
    split at hexec <;> cases hexec
    · exact ⟨_, rfl, by simp⟩
    · exact ⟨_, List.append_assoc .., by simp⟩

end

/-- Settles O44: the dispatch is that of a TICK's or a DONE's scan, which finds only a slot that fires. -/
theorem onlyADueSlotIsDispatched : Obligations.OnlyADueSlotIsDispatched := by
  intro i s t evs k h hok hexec hout hmem
  by_cases htick : i = .tick
  · subst htick
    obtain ⟨x, hdue, hhid, hdisp⟩ := State.dispatched_of_mem_tick hok hexec hout hmem
    obtain ⟨_, hx, hfires, _⟩ := (s.sampled.firstDue_eq_some 0 k.toNat x).1 hdue
    obtain ⟨hocc, hperiod⟩ := Slot.fires_eq_true.1 hfires
    rw [s.sampled_slots] at hx
    rw [s.sampled_mod, ← hdisp.now] at hperiod
    exact ⟨x, hx, hocc, hhid, hperiod, hdisp.now ▸ hdisp.slot, hdisp.phase, by simp [hdisp.cur]⟩
  by_cases hdone : i = .done
  · subst hdone
    obtain ⟨x, y, hx, hdue, hhid, hdisp⟩ := State.dispatched_of_mem_done hok hexec hout hmem
    obtain ⟨_, hy, hfires, _⟩ := (s.firstDue_eq_some _ k.toNat y).1 hdue
    obtain ⟨hocc, hperiod⟩ := Slot.fires_eq_true.1 hfires
    obtain ⟨_, _, _, ⟨hnow, _⟩, _⟩ := State.releaseOneShot_frame hx
    rw [← hdisp.now.trans hnow] at hperiod
    exact ⟨y, hy, hocc, hhid, hperiod, hdisp.now ▸ hdisp.slot, hdisp.phase, by simp [hdisp.cur]⟩
  obtain ⟨evs', hout', hnone⟩ := exec_emits_no_dispatch htick hdone hexec
  obtain rfl : evs = evs' := List.append_cancel_left (hout.symm.trans hout')
  exact absurd hmem (hnone k h)

/-! ### The end of a tick (R198, R211) -/

/-- Settles O45: the scan starts above CUR, and CUR is then what it found. -/
theorem theScanMovesUpward : Obligations.TheScanMovesUpward := by
  intro s t hok hphase h hhandler
  obtain ⟨x, hx, rfl⟩ := State.exec_done_next hphase h
  rcases (s.releaseOneShot x).advance_outcome (s.cur.toNat + 1) with ⟨i, y, hdue, hdisp⟩ | ⟨evs, hend⟩
  · obtain ⟨habove, _⟩ := (State.firstDue_eq_some _ _ i y).1 hdue
    rwa [hdisp.cur_toNat ((State.releaseOneShot_frame hx).cfg_eq ▸ hok)]
  · exact nomatch hend.phase.symm.trans hhandler

/-- Settles O46, by induction on the slots above CUR: a DONE ends the tick or leaves fewer of them. -/
theorem aTickEndsAfterBoundedlyManyDones : Obligations.ATickEndsAfterBoundedlyManyDones := by
  intro s
  induction hleft : s.slots.length - s.cur.toNat using Nat.strong_induction_on generalizing s with
  | _ left ih =>
    subst hleft
    intro hs hphase
    obtain ⟨hok, _, _, _, _, hcur⟩ := id hs
    have hlt := hcur hphase
    have hdone := State.exec_done_of_handler hphase (List.getElem?_eq_getElem hlt)
    have heffect := exec_effect hdone
    generalize (s.releaseOneShot _).advance _ = t at hdone heffect
    cases htphase : t.phase with
    | idle => exact ⟨1, t, le_rfl, by omega, by rw [State.afterDones_succ 0 s t hdone, State.afterDones_zero], htphase⟩
    | handler =>
      have hup := theScanMovesUpward s t hok hphase hdone htphase
      have hlen : t.slots.length = s.slots.length := congrArg Config.Cfg.n heffect.cfg_eq
      obtain ⟨k, u, hk, hbound, hrun, hidle⟩ := ih _ (by omega) t rfl (heffect.inv hs) htphase
      exact ⟨k + 1, u, by omega, by omega, by rw [State.afterDones_succ k s t hdone, hrun], hidle⟩

end Sys2Proof.Machine

end

/-! ## The statuses and who answers them (60_exceptions.md R240 to R246)

Which status refuses a command is a function of the command and the state. A refused command answers that status and nothing
else; any other answers OK. Each obligation reads off the function. -/

section

namespace Sys2Proof.Machine

/-! ### The check before a command (R242, R244, R245) -/

/-- The status with which a command is refused, if it is. -/
def State.refusal (s : State) : Instr → Option Status
  | .tick => if s.phase = .idle then none else some .ePhase
  | .done => if s.phase = .handler then none else some .ePhase
  | .regp idx _ _ | .regpMs idx _ _ | .reg1 idx _ _ | .reg1Ms idx _ _ | .chgp idx _ | .clrs idx =>
    if idx.toNat < s.slots.length then none else some .eIndex
  | .regpAuto _ _ | .regpMsAuto _ _ | .reg1Auto _ _ | .reg1MsAuto _ _ | .free =>
    if s.firstFree.isSome then none else some .noSlot
  | .pulse _ idx _ | .pulseMs _ idx _ | .pulseA _ idx _ | .pulseMsA _ idx _ | .pulsein _ idx | .isbusy idx | .clrp idx
  | .clrpF _ idx => if idx.toNat < s.pins.length then none else some .eIndex
  | .rd a => if (s.regRead a).isSome then none else some .eIndex
  | .elapsed _ _ => none

theorem Phase.ne_idle_iff {p : Phase} : p ≠ .idle ↔ p = .handler := by cases p <;> simp

theorem Phase.ne_handler_iff {p : Phase} : p ≠ .handler ↔ p = .idle := by cases p <;> simp

section

variable {s : State} {i : Instr}

theorem State.refusal_eq_ePhase_iff :
    s.refusal i = some .ePhase ↔ i = .tick ∧ s.phase = .handler ∨ i = .done ∧ s.phase = .idle := by
  cases i <;> simp [State.refusal, Phase.ne_idle_iff, Phase.ne_handler_iff]

theorem State.refusal_ne_eIllegal : s.refusal i ≠ some .eIllegal := by
  cases i <;> simp [State.refusal]

theorem State.refusal_of_slotIndexed {idx : Idx} {a b : Word} (hi : i ∈ slotIndexed idx a b) :
    s.refusal i = if idx.toNat < s.slots.length then none else some .eIndex := by
  simp only [slotIndexed, List.mem_cons, List.not_mem_nil, or_false] at hi
  obtain rfl | rfl | rfl | rfl | rfl | rfl := hi <;> rfl

theorem State.refusal_of_pinIndexed {v : Val} {idx : Idx} {a : Word} (hi : i ∈ pinIndexed v idx a) :
    s.refusal i = if idx.toNat < s.pins.length then none else some .eIndex := by
  simp only [pinIndexed, List.mem_cons, List.not_mem_nil, or_false] at hi
  obtain rfl | rfl | rfl | rfl | rfl | rfl | rfl | rfl := hi <;> rfl

theorem State.refusal_ne_eIndex_of_unindexed {a b : Word} (hi : i ∈ unindexed a b) : s.refusal i ≠ some .eIndex := by
  simp only [unindexed, List.mem_cons, List.not_mem_nil, or_false] at hi
  obtain rfl | rfl | rfl | rfl | rfl | rfl | rfl | rfl := hi <;> simp [State.refusal]

end

/-! ### What the check decides (R241) -/

section

variable {s t : State} {i : Instr} {st : Status} {v : Word} {evs : List Event}

/-- A refused command answers its status and does nothing else. -/
theorem exec_of_refusal (h : s.refusal i = some st) : exec i s = .next (s.raise st) := by
  cases i with
  | tick =>
    obtain ⟨hphase, rfl⟩ : s.phase = .handler ∧ .ePhase = st := by simpa [State.refusal, Phase.ne_idle_iff] using h
    exact State.exec_tick_of_handler hphase
  | done =>
    obtain ⟨hphase, rfl⟩ : s.phase = .idle ∧ .ePhase = st := by simpa [State.refusal, Phase.ne_handler_iff] using h
    exact State.exec_done_of_idle hphase
  | regp idx a b | regpMs idx a b | reg1 idx a b | reg1Ms idx a b =>
    obtain ⟨hout, rfl⟩ : s.slots.length ≤ idx.toNat ∧ .eIndex = st := by simpa [State.refusal] using h
    exact congrArg _ (State.register_of_target_error (s.target_index_out idx hout) _ _ a b)
  | regpAuto a b | regpMsAuto a b | reg1Auto a b | reg1MsAuto a b =>
    obtain ⟨hfull, rfl⟩ : s.firstFree = none ∧ .noSlot = st := by simpa [State.refusal] using h
    exact congrArg _ (State.register_of_target_error (State.target_auto_of_full hfull) _ _ a b)
  | free =>
    obtain ⟨hfull, rfl⟩ : s.firstFree = none ∧ .noSlot = st := by simpa [State.refusal] using h
    exact State.exec_free_of_none hfull
  | chgp idx a =>
    obtain ⟨hout, rfl⟩ : s.slots.length ≤ idx.toNat ∧ .eIndex = st := by simpa [State.refusal] using h
    exact State.exec_chgp_of_none ((s.slotAt_eq_none idx).2 hout) a
  | clrs idx =>
    obtain ⟨hout, rfl⟩ : s.slots.length ≤ idx.toNat ∧ .eIndex = st := by simpa [State.refusal] using h
    exact State.exec_clrs_of_none ((s.slotAt_eq_none idx).2 hout)
  | pulse val idx a | pulseMs val idx a | pulseA val idx a | pulseMsA val idx a =>
    obtain ⟨hout, rfl⟩ : s.pins.length ≤ idx.toNat ∧ .eIndex = st := by simpa [State.refusal] using h
    exact State.exec_of_pin_out hout val a (by simp [pinIndexed])
  | pulsein val idx | clrpF val idx =>
    obtain ⟨hout, rfl⟩ : s.pins.length ≤ idx.toNat ∧ .eIndex = st := by simpa [State.refusal] using h
    exact State.exec_of_pin_out hout val 0 (by simp [pinIndexed])
  | isbusy idx | clrp idx =>
    obtain ⟨hout, rfl⟩ : s.pins.length ≤ idx.toNat ∧ .eIndex = st := by simpa [State.refusal] using h
    exact State.exec_of_pin_out hout 0 0 (by simp [pinIndexed])
  | rd a =>
    obtain ⟨hnone, rfl⟩ : s.regRead a = none ∧ .eIndex = st := by simpa [State.refusal] using h
    exact State.exec_rd_of_none hnone
  | elapsed a b => exact nomatch h

/-- The last event of the state is a response OK. -/
def State.AnswersOk (t : State) : Prop := ∃ (u : State) (v : Word), t = u.respond .ok v

theorem State.answersOk_respond (u : State) (v : Word) : (u.respond .ok v).AnswersOk := ⟨u, v, rfl⟩

theorem State.answersOk_advance (u : State) (start : Nat) : (u.advance start).AnswersOk := by
  rcases u.advance_cases start with ⟨i, x, _, h⟩ | ⟨_, h⟩ <;> rw [h]
  · exact State.answersOk_respond _ 1
  · exact State.answersOk_respond _ 0

theorem State.answersOk_register {sel : Option Idx} {k : Nat} (h : s.target sel = .ok k) (rep ms : Bool) (a b : Word) :
    (s.register rep ms sel a b).AnswersOk := by
  simp only [State.register, h]
  exact State.answersOk_respond _ _

theorem State.answersOk_pulse {idx : Idx} {p : Pin} (h : s.pinAt idx = some p) (ms an : Bool) (val : Val) (a : Word) :
    (s.pulse ms an val idx a).AnswersOk := by
  simp only [State.pulse, h]
  exact State.answersOk_respond _ 0

theorem State.exists_slotAt {idx : Idx} (h : idx.toNat < s.slots.length) : ∃ x, s.slotAt idx = some x :=
  ⟨_, (s.slotAt_eq_some idx _).2 (List.getElem?_eq_getElem h)⟩

theorem State.exists_pinAt {idx : Idx} (h : idx.toNat < s.pins.length) : ∃ p, s.pinAt idx = some p :=
  ⟨_, (s.pinAt_eq_some idx _).2 (List.getElem?_eq_getElem h)⟩

theorem State.exists_firstFree (h : ∃ x ∈ s.slots, x.occ = false) : ∃ k, s.firstFree = some k := by
  obtain ⟨x, hx, hfree⟩ := h
  exact Option.ne_none_iff_exists'.1 fun hnone => by simp [s.firstFree_eq_none_iff.1 hnone x hx] at hfree

/-- A command that is not refused answers OK; DONE needs the slot that CUR names (R41). -/
theorem exec_of_not_refused (h : s.refusal i = none) (hcur : i = .done → s.cur.toNat < s.slots.length) :
    ∃ t, exec i s = .next t ∧ t.AnswersOk := by
  cases i with
  | tick =>
    have hphase : s.phase = .idle := by simpa [State.refusal] using h
    exact ⟨_, State.exec_tick_of_idle hphase, State.answersOk_advance _ 0⟩
  | done =>
    have hphase : s.phase = .handler := by simpa [State.refusal] using h
    exact ⟨_, State.exec_done_of_handler hphase (List.getElem?_eq_getElem (hcur rfl)), State.answersOk_advance _ _⟩
  | regp idx a b | regpMs idx a b | reg1 idx a b | reg1Ms idx a b =>
    have hin : idx.toNat < s.slots.length := by simpa [State.refusal] using h
    exact ⟨_, rfl, State.answersOk_register (s.target_index idx hin) _ _ a b⟩
  | regpAuto a b | regpMsAuto a b | reg1Auto a b | reg1MsAuto a b =>
    obtain ⟨k, hk⟩ : ∃ k, s.firstFree = some k := by simpa [State.refusal, Option.isSome_iff_exists] using h
    exact ⟨_, rfl, State.answersOk_register (State.target_auto_of_firstFree hk) _ _ a b⟩
  | free =>
    obtain ⟨k, hk⟩ : ∃ k, s.firstFree = some k := by simpa [State.refusal, Option.isSome_iff_exists] using h
    exact ⟨_, State.exec_free_of_some hk, s.answersOk_respond _⟩
  | chgp idx a =>
    obtain ⟨x, hx⟩ : ∃ x, s.slotAt idx = some x := State.exists_slotAt (by simpa [State.refusal] using h)
    exact ⟨_, State.exec_chgp_of_some hx a, State.answersOk_respond _ 0⟩
  | clrs idx =>
    obtain ⟨x, hx⟩ : ∃ x, s.slotAt idx = some x := State.exists_slotAt (by simpa [State.refusal] using h)
    exact ⟨_, State.exec_clrs_of_some hx, State.answersOk_respond _ 0⟩
  | pulse val idx a | pulseMs val idx a | pulseA val idx a | pulseMsA val idx a =>
    obtain ⟨p, hp⟩ : ∃ p, s.pinAt idx = some p := State.exists_pinAt (by simpa [State.refusal] using h)
    exact ⟨_, rfl, State.answersOk_pulse hp _ _ val a⟩
  | pulsein val idx | isbusy idx | clrp idx | clrpF val idx =>
    obtain ⟨p, hp⟩ : ∃ p, s.pinAt idx = some p := State.exists_pinAt (by simpa [State.refusal] using h)
    simp only [exec, execPulsein, execIsbusy, execClrp, execClrpF, hp]
    exact ⟨_, rfl, State.answersOk_respond _ _⟩
  | rd a =>
    obtain ⟨w, hw⟩ : ∃ w, s.regRead a = some w := by simpa [State.refusal, Option.isSome_iff_exists] using h
    exact ⟨_, State.exec_rd_of_some hw, s.answersOk_respond w⟩
  | elapsed a b => exact ⟨_, exec_elapsed a b s, s.answersOk_respond _⟩

/-! ### The status of a response -/

/-- Every response among the events of an answer is the one it ends with. -/
theorem State.Answers.eq_respond (h : s.Answers t) (hout : t.out = s.out ++ evs) (hmem : Event.resp st v ∈ evs) :
    ∃ u : State, t = u.respond st v := by
  obtain ⟨u, st', v', ⟨_, pre, hpre, hsilent⟩, _, rfl⟩ := h
  rw [State.respond_out, hpre, List.append_assoc] at hout
  obtain rfl := List.append_cancel_left hout
  rcases List.mem_append.1 hmem with hin | hlast
  · exact absurd rfl (hsilent _ hin st v)
  · cases List.mem_singleton.1 hlast
    exact ⟨u, rfl⟩

theorem State.respond_status_inj {u w : State} {st' : Status} {v' : Word} (h : u.respond st v = w.respond st' v') :
    st = st' := by
  have hlast : Event.resp st v = .resp st' v' := by
    simpa using congrArg (fun x : State => x.out.getLast?) h
  exact (Event.resp.inj hlast).1

/-- A DONE that ended a handler had the slot that CUR names. -/
theorem cur_lt_of_exec_done (hphase : s.phase = .handler) (h : exec .done s = .next t) : s.cur.toNat < s.slots.length := by
  obtain ⟨x, hx, _⟩ := State.exec_done_next hphase h
  exact (List.getElem?_eq_some_iff.1 hx).1

/-- A response other than OK comes from the check. -/
theorem refusal_of_resp_mem (hexec : exec i s = .next t) (hout : t.out = s.out ++ evs) (hmem : Event.resp st v ∈ evs)
    (hst : st ≠ .ok) : s.refusal i = some st := by
  obtain ⟨w, rfl⟩ := (exec_answers hexec).eq_respond hout hmem
  cases hr : s.refusal i with
  | some st' =>
    have heq : w.respond st v = s.raise st' := Host.Outcome.next.inj (hexec.symm.trans (exec_of_refusal hr))
    rw [State.respond_status_inj heq]
  | none =>
    have hcur : i = .done → s.cur.toNat < s.slots.length := by
      rintro rfl
      exact cur_lt_of_exec_done (by simpa [State.refusal] using hr) hexec
    obtain ⟨t, ht, u, v', rfl⟩ := exec_of_not_refused hr hcur
    exact absurd (State.respond_status_inj (Host.Outcome.next.inj (hexec.symm.trans ht))) hst

theorem refusedWith_of_refusal (h : s.refusal i = some st) : RefusedWith st i s := exec_of_refusal h

theorem neverAnswers_of_refusal_ne (h : s.refusal i ≠ some st) (hst : st ≠ .ok) : NeverAnswers st i s :=
  fun _ _ _ hexec hout hmem => h (refusal_of_resp_mem hexec hout hmem hst)

/-- A bounds check refuses exactly outside the bound (R245). -/
theorem bounds_check {c : Prop} [Decidable c] (h : s.refusal i = if c then none else some .eIndex) :
    if c then NeverAnswers .eIndex i s else RefusedWith .eIndex i s := by
  split <;> rename_i hc
  · exact neverAnswers_of_refusal_ne (by simp [h, hc]) (by decide)
  · exact refusedWith_of_refusal (by simp [h, hc])

end

/-! ### No trap (R241) -/

section

variable {s t : State}

theorem State.Inv.exec_next (hs : s.Inv) (i : Instr) : ∃ t, exec i s = .next t := by
  cases hr : s.refusal i with
  | some st => exact ⟨_, exec_of_refusal hr⟩
  | none =>
    obtain ⟨_, _, _, _, _, hcur⟩ := hs
    have hslot : i = .done → s.cur.toNat < s.slots.length := by
      rintro rfl
      exact hcur (by simpa [State.refusal] using hr)
    obtain ⟨t, ht, _⟩ := exec_of_not_refused hr hslot
    exact ⟨t, ht⟩

theorem State.Inv.step_next (hs : s.Inv) : ∃ t, step s = .next t := by
  have haccept : s.accept.Inv := hs
  cases hc : s.commands with
  | nil => exact ⟨s.wait, by simp [step, State.nextCommand, hc]⟩
  | cons w rest =>
    cases hd : decode w with
    | ok i =>
      rw [step_of_decode_ok hc hd]
      exact haccept.exec_next i
    | error e => exact ⟨_, step_of_decode_error hc hd⟩

theorem State.SafeRun.zero (s : State) : s.SafeRun 0 := ⟨s, rfl⟩

theorem State.SafeRun.succ {k : Nat} (h : step s = .next t) (ht : t.SafeRun k) : s.SafeRun (k + 1) := by
  obtain ⟨u, hu⟩ := ht
  have hcore : Sys2Proof.core.step s = .next t := h
  exact ⟨u, by simpa only [Host.Core.run, hcore] using hu⟩

end

/-! ### The obligations -/

/-- Settles O9: no row is no instruction, and the check of an instruction never gives E_ILLEGAL. -/
theorem illegalWordsAreAnswered : Obligations.IllegalWordsAreAnswered := by
  intro s w rest hc
  obtain ⟨selects_iff, _, illegal⟩ := decoderIsTheOpcodeMap w
  refine ⟨fun hnone => ?_, fun ⟨r, hr, hsel⟩ t ht v hmem => ?_⟩
  · obtain ⟨e, he⟩ := illegal hnone
    rw [step_of_decode_error hc he, State.accept_of_commands hc]
    rfl
  · obtain ⟨i, hi, _⟩ := (selects_iff r hr).1 hsel
    rw [step_of_decode_ok hc hi] at ht
    exact neverAnswers_of_refusal_ne State.refusal_ne_eIllegal (by decide) t t.out v ht rfl hmem

/-- Settles O13: a response other than OK comes from the check, which refuses; the invariant gives DONE its slot. -/
theorem failedCommandChangesNothing : Obligations.FailedCommandChangesNothing :=
  ⟨fun _ _ _ _ _ _ hexec hout hmem hst => refusedWith_of_refusal (refusal_of_resp_mem hexec hout hmem hst),
    fun i _ hs => hs.exec_next i⟩

/-- Settles O14: the check gives E_PHASE to these two commands in these two phases alone. -/
theorem phaseRefusals : Obligations.PhaseRefusals := by
  refine fun s => ⟨fun hphase => ?_, fun hphase => ?_, fun i htick hdone => ?_⟩
  · exact refusedWith_of_refusal (State.refusal_eq_ePhase_iff.2 (.inl ⟨rfl, hphase⟩))
  · exact refusedWith_of_refusal (State.refusal_eq_ePhase_iff.2 (.inr ⟨rfl, hphase⟩))
  · refine neverAnswers_of_refusal_ne (fun hr => ?_) (by decide)
    rcases State.refusal_eq_ePhase_iff.1 hr with ⟨hi, hphase⟩ | ⟨hi, hphase⟩
    · exact nomatch (htick hi).symm.trans hphase
    · exact nomatch (hdone hi).symm.trans hphase

/-- Settles O15: the check of each indexed command is its bounds check. -/
theorem indexOutOfRangeRefused : Obligations.IndexOutOfRangeRefused :=
  fun _ _ _ _ _ => ⟨fun _ hi => bounds_check (State.refusal_of_slotIndexed hi),
    fun _ hi => bounds_check (State.refusal_of_pinIndexed hi), bounds_check rfl,
    fun _ hi => neverAnswers_of_refusal_ne (State.refusal_ne_eIndex_of_unindexed hi) (by decide)⟩

/-- Settles O16: the lookup fails exactly on a full table; where it finds a slot, that index is the answer. -/
theorem fullTableAnswersNoSlot : Obligations.FullTableAnswersNoSlot := by
  intro s a b i hi
  obtain hauto | rfl : i ∈ [Instr.regpAuto a b, .regpMsAuto a b, .reg1Auto a b, .reg1MsAuto a b] ∨ i = .free := by
    simpa [or_assoc] using hi
  · obtain ⟨rep, ms, hexec⟩ := exec_auto_eq_register hauto s
    refine ⟨fun hfull => ?_, fun hfree => ?_⟩
    · have htarget := State.target_auto_of_full (s.firstFree_eq_none_iff.2 hfull)
      exact hexec.trans (congrArg _ (State.register_of_target_error htarget rep ms a b))
    · obtain ⟨k, hk⟩ := State.exists_firstFree hfree
      obtain ⟨_, _, _, _, _, _, hout⟩ := State.writesSlot_register_auto hk rep ms a b
      exact ⟨_, _, hexec, hout⟩
  · refine ⟨fun hfull => ?_, fun hfree => ?_⟩
    · exact State.exec_free_of_none (s.firstFree_eq_none_iff.2 hfull)
    · obtain ⟨k, hk⟩ := State.exists_firstFree hfree
      exact ⟨_, _, State.exec_free_of_some hk, rfl⟩

/-- Settles O56, by induction on the number of steps: each answers a next state and keeps the invariant. -/
theorem noRunEverStops : Obligations.NoRunEverStops := by
  intro s hs k
  induction k generalizing s with
  | zero => exact .zero s
  | succ k ih =>
    obtain ⟨t, ht⟩ := hs.step_next
    exact .succ ht (ih t (stepKeepsTheInvariant s t hs ht))

end Sys2Proof.Machine

end

/-! ## Reset and hazards (70_reset_and_hazards.md)

After the reset event no tick is in progress, so the check refuses DONE and nothing else with E_PHASE. A request at tick time 0
leaves the record of a pin that is not busy, and such a pin is left alone by every command that does not name it. -/

section

namespace Sys2Proof.Machine

/-! ### The reset event (R280, R281) -/

theorem State.resetEvent_cfg (s : State) : s.resetEvent.cfg = s.cfg := by
  obtain ⟨hcfg, _⟩ := resetValues s.cfg
  exact hcfg

section

variable {s : State} {i : Instr}

/-- DONE is the one command that may trap. -/
theorem exec_next_of_ne_done (hi : i ≠ .done) : ∃ t, exec i s = .next t := by
  cases hr : s.refusal i with
  | some st => exact ⟨_, exec_of_refusal hr⟩
  | none =>
    obtain ⟨t, ht, _⟩ := exec_of_not_refused hr (absurd · hi)
    exact ⟨t, ht⟩

theorem neverAnswers_ePhase_of_idle (hphase : s.phase = .idle) (hi : i ≠ .done) : NeverAnswers .ePhase i s :=
  neverAnswers_of_refusal_ne (by simp [State.refusal_eq_ePhase_iff, hphase, hi]) (by decide)

end

/-- Settles O51: the reset phase is IDLE, in which the check gives E_PHASE to DONE alone. -/
theorem resetEventAbandonsTheTick : Obligations.ResetEventAbandonsTheTick := by
  intro s
  refine ⟨rfl, rfl, ⟨rfl, rfl, rfl, rfl⟩, s.resetEvent_cfg, rfl, ?_, fun i hi => ?_⟩
  · exact ⟨_, State.exec_done_of_idle rfl, s.resetEvent.onlyEmits_raise .ePhase⟩
  · obtain ⟨t, ht⟩ := exec_next_of_ne_done hi
    exact ⟨t, ht, fun v => neverAnswers_ePhase_of_idle rfl hi t t.out v ht rfl⟩

/-! ### A pin that is not busy (R43, R205) -/

theorem Pin.busy_eq_false {p : Pin} : p.busy = false ↔ p.firedAt = 0 ∧ p.readingAt = 0 := by
  simp [Pin.busy]

theorem assertEvent_pin (an : Bool) (idx : Idx) (val : Val) : (assertEvent an idx val).pin? = some idx := by
  cases an <;> rfl

section

variable {s t u : State} {idx : Idx} {p : Pin} {i : Instr}

/-- A command that does not name the pin leaves its record, the scans of TICK and DONE included (R36). -/
theorem exec_keeps_record_of_not_busy (hexec : exec i s = .next t) (hp : s.pins[idx.toNat]? = some p) (hbusy : p.busy = false)
    (hi : ¬writesPin idx.toNat i) : t.pins[idx.toNat]? = some p := by
  obtain ⟨hfired, hreading⟩ := Pin.busy_eq_false.1 hbusy
  have hlen : t.pins.length = s.pins.length := congrArg Config.Cfg.m (exec_effect hexec).cfg_eq
  have hq : t.pins[idx.toNat]? = some _ := List.getElem?_eq_getElem (hlen ▸ (List.getElem?_eq_some_iff.1 hp).1)
  obtain ⟨_, _, hwriters⟩ := pinFieldsAreWrittenOnlyAsListed i s t idx.toNat p _ hexec hp hq
  rw [hq]
  by_contra hne
  rcases hwriters (mt (congrArg some) hne) with hpulse | hcapture | hclear | ⟨_, hactive⟩
  · exact hi (.inl hpulse)
  · exact hi (.inr (.inl hcapture))
  · exact hi (.inr (.inr hclear))
  · exact hactive.elim (absurd hreading) (absurd hfired)

/-- The events of a pulse are of its pin, or no driver events. -/
theorem State.pulse_emits_of_pin (s : State) (ms an : Bool) (val : Val) (idx : Idx) (a : Word) :
    ∃ evs, (s.pulse ms an val idx a).out = s.out ++ evs ∧ ∀ e ∈ evs, ∀ k, e.pin? = some k → idx = k := by
  rcases s.pulse_cases ms an val idx a with ⟨_, h⟩ | ⟨p, _, h⟩ <;> rw [h]
  · exact ⟨[.resp .eIndex 0], rfl, by simp [Event.pin?]⟩
  · refine ⟨[.ioSetOutput idx, assertEvent an idx val, .resp .ok 0], by simp, fun e he k hk => ?_⟩
    obtain rfl | rfl | rfl : e = .ioSetOutput idx ∨ e = assertEvent an idx val ∨ e = .resp .ok 0 := by simpa using he
    · exact Option.some.inj hk
    · exact Option.some.inj ((assertEvent_pin an idx val).symm.trans hk)
    · exact nomatch hk

/-- Outside the scans of TICK and DONE a driver event is of a pin that the command names (R97). -/
theorem exec_emits_of_written_pin (htick : i ≠ .tick) (hdone : i ≠ .done) (hexec : exec i s = .next t) :
    ∃ evs, t.out = s.out ++ evs ∧ ∀ e ∈ evs, ∀ k, e.pin? = some k → writesPin k.toNat i := by
  cases i with
  | tick => exact absurd rfl htick
  | done => exact absurd rfl hdone
  | pulse val idx a | pulseMs val idx a | pulseA val idx a | pulseMsA val idx a =>
    cases hexec
    obtain ⟨evs, hout, hpin⟩ := s.pulse_emits_of_pin _ _ val idx a
    exact ⟨evs, hout, fun e he k hk => .inl (congrArg BitVec.toNat (hpin e he k hk))⟩
  | pulsein val idx | clrpF val idx =>
    simp only [exec, execPulsein, execClrpF] at hexec
    split at hexec <;> cases hexec
    · exact ⟨_, rfl, by simp [Event.pin?]⟩
    · exact ⟨_, List.append_assoc .., by simp [Event.pin?, writesPin, capturesPin, clearsPin]⟩
  | regp idx a b | regpAuto a b | regpMs idx a b | regpMsAuto a b
  | reg1 idx a b | reg1Auto a b | reg1Ms idx a b | reg1MsAuto a b =>
    cases hexec
    rcases s.register_cases _ _ _ a b with ⟨st, _, h⟩ | ⟨n, _, h⟩ <;> exact ⟨_, congrArg State.out h, by simp [Event.pin?]⟩
  | chgp idx a | clrs idx | free | isbusy idx | clrp idx | rd idx =>
    simp only [exec, execChgp, execClrs, execFree, execIsbusy, execClrp, execRd] at hexec
    split at hexec <;> cases hexec <;> exact ⟨_, rfl, by simp [Event.pin?]⟩
  | elapsed a b =>
    cases hexec
    exact ⟨_, rfl, by simp [Event.pin?]⟩

/-- The pin scan passes over a pin that is not busy (R205). -/
theorem State.leavesPin_pinScan (hok : s.cfg.Ok) (hp : s.pins[idx.toNat]? = some p) (hbusy : p.busy = false) :
    s.LeavesPin idx s.pinScan := by
  obtain ⟨_, ⟨_, hm⟩, _⟩ := hok
  obtain ⟨hfired, hreading⟩ := Pin.busy_eq_false.1 hbusy
  obtain ⟨v, _, _, hbefore, hafter⟩ := State.pinScan_at (List.getElem?_eq_some_iff.1 hp).1 (hm.trans (by decide))
  rw [State.pinStep_of_idle (hbefore.record.trans hp) hreading hfired] at hafter
  exact hbefore.trans hafter

theorem State.leavesPin_advance (hok : s.cfg.Ok) (hp : s.pins[idx.toNat]? = some p) (hbusy : p.busy = false) (start : Nat) :
    s.LeavesPin idx (s.advance start) := by
  rcases s.advance_cases start with ⟨i, x, hdue, h⟩ | ⟨_, h⟩ <;> rw [h]
  · obtain ⟨_, hx, _⟩ := (s.firstDue_eq_some start i x).1 hdue
    have hdisp := State.dispatched hx
    exact ⟨congrArg (·[idx.toNat]?) hdisp.pins, _, hdisp.out, by simp [Event.pin?]⟩
  · have hend : s.pinScan.LeavesPin idx (s.pinScan.goIdle.respond .ok 0) := .of_emitted rfl rfl (by simp [Event.pin?])
    exact (State.leavesPin_pinScan hok hp hbusy).trans hend

theorem exec_tick_leavesPin (hok : s.cfg.Ok) (hexec : exec .tick s = .next t) (hp : s.pins[idx.toNat]? = some p)
    (hbusy : p.busy = false) : s.LeavesPin idx t := by
  cases hphase : s.phase with
  | handler =>
    cases hexec.symm.trans (State.exec_tick_of_handler hphase)
    exact .of_emitted rfl rfl (by simp [Event.pin?])
  | idle =>
    cases hexec.symm.trans (State.exec_tick_of_idle hphase)
    have hsampled : s.LeavesPin idx s.sampled := .of_emitted (by simp) s.sampled_out (by simp [Event.pin?])
    exact hsampled.trans (State.leavesPin_advance (s.sampled_cfg ▸ hok) (hsampled.record.trans hp) hbusy 0)

theorem exec_done_leavesPin (hok : s.cfg.Ok) (hexec : exec .done s = .next t) (hp : s.pins[idx.toNat]? = some p)
    (hbusy : p.busy = false) : s.LeavesPin idx t := by
  cases hphase : s.phase with
  | idle =>
    cases hexec.symm.trans (State.exec_done_of_idle hphase)
    exact .of_emitted rfl rfl (by simp [Event.pin?])
  | handler =>
    obtain ⟨x, hx, rfl⟩ := State.exec_done_next hphase hexec
    have hrelease := State.releaseOneShot_frame hx
    obtain ⟨_, _, hpins, _, _, _, hout⟩ := id hrelease
    have hreleased : s.LeavesPin idx (s.releaseOneShot x) := ⟨congrArg (·[idx.toNat]?) hpins, [], hout, by simp⟩
    exact hreleased.trans (State.leavesPin_advance (hrelease.cfg_eq ▸ hok) (hreleased.record.trans hp) hbusy _)

/-- A command that does not name the pin leaves it alone. -/
theorem exec_leavesPin_of_not_busy (hok : s.cfg.Ok) (hexec : exec i s = .next t) (hp : s.pins[idx.toNat]? = some p)
    (hbusy : p.busy = false) (hi : ¬writesPin idx.toNat i) : s.LeavesPin idx t := by
  by_cases htick : i = .tick
  · subst htick
    exact exec_tick_leavesPin hok hexec hp hbusy
  by_cases hdone : i = .done
  · subst hdone
    exact exec_done_leavesPin hok hexec hp hbusy
  obtain ⟨evs, hout, hwrites⟩ := exec_emits_of_written_pin htick hdone hexec
  exact ⟨(exec_keeps_record_of_not_busy hexec hp hbusy hi).trans hp.symm, evs, hout,
    fun e he hpin => hi (hwrites e he idx hpin)⟩

/-! ### Many commands, none of which names the pin -/

/-- What each command of a list keeps holds after the list. -/
theorem State.afterAll_induction {P : State → Prop} {is : List Instr} (hs : P s) (h : s.afterAll is = .next t)
    (hstep : ∀ c ∈ is, ∀ v w, P v → exec c v = .next w → P w) : P t := by
  induction is generalizing s with
  | nil =>
    cases h
    exact hs
  | cons c is ih =>
    obtain ⟨v, hv, hrest⟩ := State.afterAll_cons_next c is s t h
    exact ih (hstep c List.mem_cons_self s v hs hv) hrest fun d hd => hstep d (List.mem_cons_of_mem c hd)

theorem State.afterAll_keeps_record_of_not_busy {is : List Instr} (h : s.afterAll is = .next t)
    (hp : s.pins[idx.toNat]? = some p) (hbusy : p.busy = false) (his : ∀ c ∈ is, ¬writesPin idx.toNat c) :
    t.pins[idx.toNat]? = some p :=
  State.afterAll_induction (P := fun v => v.pins[idx.toNat]? = some p) hp h
    fun c hc _ _ hv hexec => exec_keeps_record_of_not_busy hexec hv hbusy (his c hc)

theorem State.afterAll_leavesPin_of_not_busy {is : List Instr} (hok : s.cfg.Ok) (h : s.afterAll is = .next t)
    (hp : s.pins[idx.toNat]? = some p) (hbusy : p.busy = false) (his : ∀ c ∈ is, ¬writesPin idx.toNat c) :
    s.LeavesPin idx t := by
  have hrun := State.afterAll_induction (P := fun v => v.cfg.Ok ∧ s.LeavesPin idx v) ⟨hok, .refl idx s⟩ h
    fun c hc v w ⟨hv, hleaves⟩ hexec => ⟨(exec_effect hexec).cfg_eq ▸ hv,
      hleaves.trans (exec_leavesPin_of_not_busy hv hexec (hleaves.record.trans hp) hbusy (his c hc))⟩
  exact hrun.2

/-! ### The zero-timestamp hazard (R290) -/

/-- At tick time 0 the time that a request stores is the flag that nothing was requested (R31, R32). -/
theorem exec_request_at_time_zero_not_busy {a : Word} {l : Level} {d : Val} (hnow : s.now = 0)
    (hp : s.pins[idx.toNat]? = some p) (hreading : p.readingAt = 0)
    (hi : i ∈ [Instr.pulse (l.zeroExtend 8) idx a, .pulseMs (l.zeroExtend 8) idx a, .pulseA d idx a, .pulseMsA d idx a,
      .pulsein (l.zeroExtend 8) idx]) :
    ∃ t q evs, exec i s = .next t ∧ WritesPin idx.toNat q evs s t ∧ q.busy = false := by
  have hbusy : ∀ (delay : Time) (v : Val), Pin.busy ⟨s.now, p.readingAt, delay, v⟩ = false :=
    fun _ _ => Pin.busy_eq_false.2 ⟨hnow, hreading⟩
  simp only [List.mem_cons, List.not_mem_nil, or_false] at hi
  obtain rfl | rfl | rfl | rfl | rfl := hi
  · exact ⟨_, _, _, rfl, State.writesPin_pulse hp false false _ a, hbusy _ _⟩
  · exact ⟨_, _, _, rfl, State.writesPin_pulse hp true false _ a, hbusy _ _⟩
  · exact ⟨_, _, _, rfl, State.writesPin_pulse hp false true d a, hbusy _ _⟩
  · exact ⟨_, _, _, rfl, State.writesPin_pulse hp true true d a, hbusy _ _⟩
  · obtain ⟨hcapture, _⟩ := pulseInResult s idx l
    obtain ⟨t, hexec, hwrites⟩ := hcapture (List.getElem?_eq_some_iff.1 hp).1
    exact ⟨t, _, _, hexec, hwrites, Pin.busy_eq_false.2 ⟨rfl, hnow⟩⟩

end

/-- Settles O35: the request leaves a pin that is not busy, and every command that does not name such a pin leaves it alone. -/
theorem requestsAtTimeZeroAreLost : Obligations.RequestsAtTimeZeroAreLost := by
  intro s idx a l d p hnow hp hreading i hi
  obtain ⟨t, q, _, hexec, hwrites, hbusy⟩ := exec_request_at_time_zero_not_busy hnow hp hreading hi
  have hcfg := hwrites.cfg_eq
  obtain ⟨hq, _, _, ⟨_, _, hphase, _⟩, _⟩ := hwrites
  have hisbusy : exec (.isbusy idx) t = .next (t.respond .ok 0) := by simp [State.exec_isbusy_of_some hq, hbusy]
  have hnames : ¬writesPin idx.toNat .tick := by simp [writesPin, pulsesPin, capturesPin, clearsPin]
  refine ⟨t, hexec, ⟨_, hisbusy, t.onlyEmits_respond .ok 0⟩, fun hidle => ?_, fun later w hlater hrun => ⟨?_, fun hok => ?_⟩⟩
  · have htick := State.exec_tick_of_idle (hphase.trans hidle)
    exact ⟨_, htick, (exec_keeps_record_of_not_busy htick hq hbusy hnames).trans hq.symm⟩
  · exact (State.afterAll_keeps_record_of_not_busy hrun hq hbusy hlater).trans hq.symm
  · exact (State.afterAll_leavesPin_of_not_busy (hcfg ▸ hok) hrun hq hbusy hlater).events

end Sys2Proof.Machine

end

/-! ## The outcomes of a step that the spec leaves open (R13, R41; log 2, log 7)

The spec says that the block waits for a command, and that CUR names a slot while a handler is outstanding. What the model does
while it waits is its own choice, and so is what it does where CUR names none. -/

section

namespace Sys2Proof.Machine

section

variable {s : State} {i : Instr}

/-! ### The empty port (R13) -/

theorem step_of_no_command (hc : s.commands = []) : step s = .next s.wait := by
  simp [step, State.nextCommand, hc]

theorem State.onlyEmits_wait (s : State) : OnlyEmits [] { s with out := [] } s.wait :=
  ⟨rfl, rfl, ⟨rfl, rfl, rfl, rfl⟩, ⟨rfl, rfl⟩, ⟨rfl, rfl, rfl, rfl⟩, rfl⟩

/-! ### DONE outside the table (R41) -/

theorem exec_done_of_cur_out (hphase : s.phase = .handler) (hcur : s.slots.length ≤ s.cur.toNat) :
    exec .done s = .fault .curOutsideTable := by
  simp only [exec, execDone, hphase, List.getElem?_eq_none hcur]

/-- A command that passes the check answers unless it is DONE, and DONE passes it in phase HANDLER alone. -/
theorem exec_next_of_not_cur_out (h : ¬(i = .done ∧ s.phase = .handler ∧ s.slots.length ≤ s.cur.toNat)) :
    ∃ t, exec i s = .next t := by
  cases hr : s.refusal i with
  | some st => exact ⟨_, exec_of_refusal hr⟩
  | none =>
    have hcur : i = .done → s.cur.toNat < s.slots.length := by
      rintro rfl
      have hphase : s.phase = .handler := by simpa [State.refusal] using hr
      exact Nat.lt_of_not_le fun hout => h ⟨rfl, hphase, hout⟩
    obtain ⟨t, ht, _⟩ := exec_of_not_refused hr hcur
    exact ⟨t, ht⟩

end

/-! ### The obligations -/

/-- Settles O10: with no word on the port the step is the wait, whose frame is that of no event. -/
theorem noCommandChangesNothing : Obligations.NoCommandChangesNothing :=
  fun s hc => ⟨s.wait, step_of_no_command hc, s.onlyEmits_wait⟩

/-- Settles O57: where DONE finds no slot at CUR it faults; everywhere else the command answers, which is no fault. -/
theorem theOnlyFault : Obligations.TheOnlyFault := by
  refine fun i s => ⟨⟨fun hfault => ?_, fun ⟨hi, hphase, hcur⟩ => ?_⟩, exec_next_of_not_cur_out⟩
  · by_contra hin
    obtain ⟨t, ht⟩ := exec_next_of_not_cur_out hin
    exact nomatch hfault.symm.trans ht
  · rw [hi]
    exact exec_done_of_cur_out hphase hcur

end Sys2Proof.Machine

end
